-- ==== Sys2Proof/Word.lean ====
section
/-! DEFINITION. The plain words of the block and the list-of-bytes views of a number (00_scope.md R11). -/

namespace Sys2Proof

/-- One byte of the collaborator's data, of the frame buffer or of the telemetry stream. -/
abbrev Byte := BitVec 8

/-- A state code, a fault code or a request opcode (10_state.md R21, R34; 30_encoding.md R95). -/
abbrev Code := BitVec 4

/-- A 32-bit register or mask. -/
abbrev Word32 := BitVec 32

end Sys2Proof
end

