-- ==== Sys2Proof/Config.lean ====
section
/-! DEFINITION. What is fixed for the block (00_scope.md R7, R8), the parameters a model takes as arguments (R9, R52),
and the two free values. -/

namespace Sys2Proof.Config

/-- `ACC_CAP` (R7). -/
abbrev accCap : Nat := 1024

/-- `PRE_MARGIN` (R7). -/
abbrev preMargin : Nat := 10

/-- `POST_MARGIN` (R7). -/
abbrev postMargin : Nat := 50

/-- `RX_BUF_CAP` (R8, D9). -/
abbrev rxBufCap : Nat := 127

/-- `TRAILER_LEN` (R8, D10). -/
abbrev trailerLen : Nat := 2

/-- `RID_STATUS` (R8, R97). -/
abbrev ridStatus : Code := 0x0

/-- `RID_RXINFO` (R8, R97). -/
abbrev ridRxinfo : Code := 0x1

/-- `ARM_IMMEDIATE` (R8, D25). -/
abbrev armImmediate : BitVec 16 := 0x0

/-- The parameters left open (R9) and the size of the receive memory (20_memory.md R52). They stand in State, which no
step changes in this field, so a statement about every state holds for every value of them (log 3). -/
structure Params where
  goodMask   : Word32
  errMask    : Word32
  rxlenMask  : Word32
  rxmemSize  : Nat
  deriving DecidableEq, Repr

/-- `RXLEN_MASK` has the form `2^k - 1` with `1 ≤ k ≤ 16` (R9). -/
def isLenMask (m : Word32) : Bool :=
  (List.range 16).any fun k => m == BitVec.ofNat 32 (2 ^ (k + 1) - 1)

/-- The constraints of R9 and of R52: both masks nonzero and disjoint, a length mask of the stated form, and a receive
memory that holds the largest payload. -/
def Params.wf (p : Params) : Bool :=
  p.goodMask != 0 && p.errMask != 0 && p.goodMask &&& p.errMask == 0 && isLenMask p.rxlenMask
    && decide (rxBufCap - trailerLen ≤ p.rxmemSize)

/-- A FREE VALUE (log 11, DESIGN CHOICE: the spec states no result): what an 11-bit `idx` holds after `idx + 1` does not
fit in it. Applied to the counter of free values. No body: nothing can be proved of it. -/
opaque freeIdx : Nat → BitVec 11

/-- A FREE VALUE (log 8, DESIGN CHOICE: the spec states no code): whether a WRITE_CLEAR32 fault whose mask is neither
parameter is recorded as `F_CLEAR_GOOD` (true) or `F_CLEAR_ERR` (false). Applied to the counter of free values. -/
opaque freeClearIsGood : Nat → Bool

end Sys2Proof.Config
end

