-- ==== Sys2Proof/Machine/PowerOn.lean ====
section
/-! DEFINITION. The values the spec leaves unspecified at reset (10_state.md R43) and the parameters of the reset state. -/

namespace Sys2Proof.Machine

/-- One value for each register whose reset value the spec leaves unspecified (R43), the frame buffer apart. -/
structure Unspecified where
  status   : Word32
  frameLen : Word32
  payLen   : BitVec 8
  fpRaw    : BitVec 16
  fp       : BitVec 10
  winStart : BitVec 10
  winEnd   : BitVec 10
  idx      : BitVec 11
  re       : Word32
  im       : Word32
  magMilli : BitVec 28
  deriving DecidableEq, Repr

/-- The values `State.reset` names for them (DESIGN CHOICE, unsafe, log 1): nonzero, since R43 forbids zero by name, and
within the range R25 to R33 give each register. No statement rests on them: those about reset hold for every
`Unspecified`. -/
def powerOn : Unspecified where
  status   := 0xA5A5A5A5
  frameLen := 0x0000005A
  payLen   := 0x5A
  fpRaw    := 0xA5A5
  fp       := 0x165
  winStart := 0x15A
  winEnd   := 0x1A5
  idx      := 0x165
  re       := 0x0000A5A5
  im       := 0x00005A5A
  magMilli := 0x5A5A5A5

/-- The parameters `State.reset` names (DESIGN CHOICE, log 3): the spec's example masks (R9) and a receive memory of
1024 bytes. -/
def exampleParams : Config.Params where
  goodMask  := 0x00004000
  errMask   := 0x00009000
  rxlenMask := 0x000003FF
  rxmemSize := 1024

end Sys2Proof.Machine
end

