-- ==== Sys2Proof/Machine/Request.lean ====
section
/-! DEFINITION. The collaborator port: requests and their 64-bit words (30_encoding.md R95 to R98), responses (R99),
and what a response carries for each request. -/

namespace Sys2Proof.Machine

/-- The seven bytes of an accumulator record (R80). -/
structure Record where
  b0 : Byte
  b1 : Byte
  b2 : Byte
  b3 : Byte
  b4 : Byte
  b5 : Byte
  b6 : Byte
  deriving DecidableEq, Repr

/-- A response of the port (R99): `fault`, or OK with the data of the request. The snapshot's other fields, which the
block ignores (20_memory.md R54), stand in `other`. -/
inductive Response where
  | ack
  | word (w : Word32)
  | bytes (bs : List Byte)
  | diag (fpIndex : BitVec 16) (other : List Byte)
  | fault
  deriving DecidableEq, Repr

/-- One element of the observation (10_state.md R44; 20_memory.md R69): a request word with its response, one telemetry
line, or (log 9, never in a run of the block) the pair a record decoder put out. -/
inductive Event where
  | request (word : BitVec 64) (r : Response)
  | line (bs : List Byte)
  | sample (re im : Word32)
  deriving DecidableEq, Repr

/-- A request word from its fields: OP, RID, eight reserved zeros, A, B (R95). -/
def requestWord (op rid : Code) (a : BitVec 16) (b : Word32) : BitVec 64 := op ++ rid ++ (0 : Byte) ++ a ++ b

/-- ARM_RX (R96, R98): the block always asks for immediate reception. -/
def armWord : BitVec 64 := requestWord 0x1 0 Config.armImmediate 0

/-- READ_REG32 of a register identifier (R96 to R98). -/
def regReadWord (rid : Code) : BitVec 64 := requestWord 0x2 rid 0 0

/-- WRITE_CLEAR32 of the status register with a mask (R96, R98). -/
def clearWord (mask : Word32) : BitVec 64 := requestWord 0x3 Config.ridStatus 0 mask

/-- READ_RX_DATA of `len` bytes at offset 0 (R96, R98). -/
def rxDataWord (len : BitVec 16) : BitVec 64 := requestWord 0x4 0 len 0

/-- READ_ACC of one sample index, zero-extended to 16 bits (R95, R98). -/
def accWord (index : BitVec 10) : BitVec 64 := requestWord 0x5 0 (index.setWidth 16) 0

/-- READ_DIAG (R96, R98). -/
def diagWord : BitVec 64 := requestWord 0x6 0 0 0

/-- OK of ARM_RX and WRITE_CLEAR32 carries nothing (R99). -/
def takeAck : Response → Option Unit
  | .ack => some ()
  | .word _ | .bytes _ | .diag _ _ | .fault => none

/-- OK of READ_REG32 carries one 32-bit word (R99). -/
def takeWord : Response → Option Word32
  | .word w => some w
  | .ack | .bytes _ | .diag _ _ | .fault => none

/-- OK of READ_RX_DATA carries exactly `n` bytes (R99). -/
def takeBytes (n : Nat) : Response → Option (List Byte)
  | .bytes bs => if bs.length = n then some bs else none
  | .ack | .word _ | .diag _ _ | .fault => none

/-- OK of READ_ACC carries exactly seven bytes (R99). -/
def takeRecord : Response → Option Record
  | .bytes [b0, b1, b2, b3, b4, b5, b6] => some ⟨b0, b1, b2, b3, b4, b5, b6⟩
  | _ => none

/-- OK of READ_DIAG carries a 16-bit first-path index; the block ignores the rest (R99; 20_memory.md R54). -/
def takeDiag : Response → Option (BitVec 16)
  | .diag f _ => some f
  | .ack | .word _ | .bytes _ | .fault => none

end Sys2Proof.Machine
end

