-- ==== Sys2Proof/Machine/State.lean ====
section
/-! DEFINITION. The block's state (10_state.md), its inputs held as plain data, the reasons a step can stop, and the
state right after reset (R43). -/

namespace Sys2Proof.Machine

/-- The frame buffer as (address, byte) pairs: addresses strictly rising, all below `RX_BUF_CAP` (`Memory.wf`). A byte
that is not listed has no value (log 2). -/
abbrev Memory := List Host.Cell

/-- The whole machine. The first sixteen fields are the block's registers and its buffer (R21 to R36); then what it has
put out (R44), its inputs, its parameters, and two fields of the model's own. -/
structure State where
  /-- `st` (R21). -/
  st         : Code
  /-- `status` (R23). -/
  status     : Word32
  /-- `frame_len` (R25). -/
  frameLen   : Word32
  /-- `pay_len` (R26). -/
  payLen     : BitVec 8
  /-- `buf` (R27). -/
  buf        : Memory
  /-- `fp_raw` (R28). -/
  fpRaw      : BitVec 16
  /-- `fp` (R29). -/
  fp         : BitVec 10
  /-- `win_start` (R30). -/
  winStart   : BitVec 10
  /-- `win_end` (R30). -/
  winEnd     : BitVec 10
  /-- `idx` (R31). -/
  idx        : BitVec 11
  /-- `re` (R32), two's complement. -/
  re         : Word32
  /-- `im` (R32), two's complement. -/
  im         : Word32
  /-- `mag_milli` (R33). -/
  magMilli   : BitVec 28
  /-- `fault_code` (R34). -/
  faultCode  : Code
  /-- `fault_state` (R35). -/
  faultState : Code
  /-- `fault_idx` (R36). -/
  faultIdx   : BitVec 10
  /-- The interleaved observation since reset, oldest first (R44; 20_memory.md R69). -/
  trace      : List Event
  /-- INPUT: the responses the collaborator will give, the next one first (20_memory.md R65; log 4). -/
  responses  : List Response
  /-- INPUT: whether the telemetry sink holds off the next line (20_memory.md R68; log 5). -/
  sinkHold   : Bool
  /-- INPUT: whether the reset input is asserted (70_reset_and_hazards.md R260; log 6). -/
  rstIn      : Bool
  /-- INPUT: the values the unspecified registers take at the next reset (R43; log 6). -/
  rstDraw    : Unspecified
  /-- The parameters (00_scope.md R9); no step changes them. -/
  params     : Config.Params
  /-- The model's own (log 7): the bytes a test bench presents at the block's boundary; empty in every run of the block. -/
  bench      : List Byte
  /-- The model's own (logs 8 and 11): how many free values have been drawn. -/
  freeCount  : Nat
  deriving DecidableEq, Repr

/-- The machine stops. Both arise only in states that no run of the block reaches, or in a test bench's word. -/
inductive Fault where
  /-- Raised by S_GOOD_COPY for a payload byte at a buffer address of 127 or more, which does not exist (R27;
  43_receive_state_machine.md R196 keeps a run from it). Safe: the spec gives no such byte. -/
  | noSuchBufferByte
  /-- Raised by S_GOOD_COPY and READ_RX_DATA for a length above `RXMEM_SIZE`: those bytes of the receive memory do not
  exist (20_memory.md R52). Safe. -/
  | noSuchRxByte
  deriving DecidableEq, Repr

/-- The model gives no meaning. -/
inductive Refusal where
  /-- Raised by exec for a row without a meaning; none is left. Safe. -/
  | notModelled (mnemonic : String)
  /-- Raised by every requesting step when the next response does not carry the data of the request: "not a response the
  port can carry; a model refuses it at the port boundary" (30_encoding.md R99). Safe. -/
  | badResponse
  /-- Raised by S_GOOD_COPY when `frame_len - TRAILER_LEN` is no LEN from 1 to 65535, and by READ_RX_DATA with LEN 0: such a
  request is reserved (30_encoding.md R101; log 12). Safe. -/
  | noRequestWord
  /-- Raised by step when the parameters break R9 or R52 ("refused by the well-formedness check", D6). Safe. -/
  | badParameters
  /-- Raised by step when a test bench presents bytes that are no request word, line or record (30_encoding.md R101;
  40_sample_decoder.md R126). Safe. -/
  | undecodableBench
  deriving DecidableEq, Repr

/-- What a step or a meaning answers. -/
abbrev Result := Host.Outcome State Fault Refusal

/-- Reset (R43): `st` is S_ARM_CLEAR, no fault is recorded, nothing has been put out, no buffer byte has a value, and
each unspecified register holds the value `u` gives it. -/
def State.resetWith (u : Unspecified) (p : Config.Params) : State where
  st         := 0x0
  status     := u.status
  frameLen   := u.frameLen
  payLen     := u.payLen
  buf        := []
  fpRaw      := u.fpRaw
  fp         := u.fp
  winStart   := u.winStart
  winEnd     := u.winEnd
  idx        := u.idx
  re         := u.re
  im         := u.im
  magMilli   := u.magMilli
  faultCode  := 0
  faultState := 0
  faultIdx   := 0
  trace      := []
  responses  := []
  sinkHold   := false
  rstIn      := false
  rstDraw    := u
  params     := p
  bench      := []
  freeCount  := 0

/-- The machine right after reset: the unspecified registers at the values of log 1, the parameters at those of log 3. -/
def State.reset : State := State.resetWith powerOn exampleParams

end Sys2Proof.Machine
end

