-- ==== Sys2Proof/Machine/Flags.lean ====
section
/-! DEFINITION. The one condition of the block, the class of a status value (10_state.md R24; 43_receive_state_machine.md
R194), the fault codes (60_exceptions.md R231) and the output `fault_o` (R37). -/

namespace Sys2Proof.Machine

/-- "Exactly one of {frame-good, frame-error, pending}" (R194). -/
inductive StatusClass where
  | good
  | error
  | pending
  deriving DecidableEq, Repr

/-- `class` (R194): frame-good wins when both masks match (D7). -/
def classOf (p : Config.Params) (s : Word32) : StatusClass :=
  if s &&& p.goodMask ≠ 0 then .good
  else if s &&& p.errMask ≠ 0 then .error
  else .pending

/-- The successor of S_POLL for a class (R193). -/
def pollTarget : StatusClass → Code
  | .good => 0x3
  | .error => 0xC
  | .pending => 0x2

/-- `F_ARM` (R231). -/
abbrev fArm : Code := 0x1
/-- `F_STATUS_READ` (R231). -/
abbrev fStatusRead : Code := 0x2
/-- `F_RXINFO_READ` (R231). -/
abbrev fRxinfoRead : Code := 0x3
/-- `F_PAYLOAD_READ` (R231). -/
abbrev fPayloadRead : Code := 0x4
/-- `F_DIAG_READ` (R231). -/
abbrev fDiagRead : Code := 0x5
/-- `F_ACC_READ` (R231). -/
abbrev fAccRead : Code := 0x6
/-- `F_CLEAR_GOOD` (R231). -/
abbrev fClearGood : Code := 0x7
/-- `F_CLEAR_ERR` (R231). -/
abbrev fClearErr : Code := 0x8
/-- `F_BAD_STATE` (R231). -/
abbrev fBadState : Code := 0x9

/-- `fault_o` (R37). -/
def State.faultO (s : State) : Bool := s.st == 0xD

end Sys2Proof.Machine
end

