-- ==== Sys2Proof/Machine/Operands.lean ====
section
/-! DEFINITION. The pure functions the operations apply to their operands: the sample decoder (40_sample_decoder.md), the
window and the magnitude (41_cir_window_extractor.md), the substitution (42_diagnostics_framer.md R170), the length checks
(43_receive_state_machine.md R195, R196) and the next index (41_cir_window_extractor.md R149). -/

namespace Sys2Proof.Machine

/-- `sext_18` (00_scope.md R12; R122 form (b)): `raw - 2^18` when bit 17 is set, else `raw`. -/
def sext18 (raw : BitVec 18) : Int :=
  if raw.getLsbD 17 then (raw.toNat : Int) - 262144 else (raw.toNat : Int)

/-- `toS32` (R12). -/
def toS32 (v : Int) : Word32 := BitVec.ofInt 32 v

/-- `raw_re` (30_encoding.md R82): two bits of B3, then B2, then B1. -/
def rawRe (r : Record) : BitVec 18 := r.b3.extractLsb' 0 2 ++ r.b2 ++ r.b1

/-- `raw_im` (R82): two bits of B6, then B5, then B4. -/
def rawIm (r : Record) : BitVec 18 := r.b6.extractLsb' 0 2 ++ r.b5 ++ r.b4

/-- `decode` (R120): the pair of integers of a record. -/
def decodeSample (r : Record) : Int × Int := (sext18 (rawRe r), sext18 (rawIm r))

/-- The bytes of the 56-bit little-endian word `W` (30_encoding.md R81). -/
def recordOfWord (w : BitVec 56) : Record where
  b0 := w.extractLsb' 0 8
  b1 := w.extractLsb' 8 8
  b2 := w.extractLsb' 16 8
  b3 := w.extractLsb' 24 8
  b4 := w.extractLsb' 32 8
  b5 := w.extractLsb' 40 8
  b6 := w.extractLsb' 48 8

/-- Bit by bit from the top: the largest `q' < q + 2^k` whose square is at most `n`, given that `q * q ≤ n`. -/
def isqrtGo (n : Nat) : Nat → Nat → Nat
  | 0, q => q
  | k + 1, q => if (q + 2 ^ k) * (q + 2 ^ k) ≤ n then isqrtGo n k (q + 2 ^ k) else isqrtGo n k q

/-- `isqrt` (R16): the root of a number below `2^(2k)` is below `2^k`. -/
def isqrt (n : Nat) : Nat := isqrtGo n (Nat.log2 n / 2 + 1) 0

/-- `sumsq` (R145), exact. -/
def sumsq (re im : Int) : Nat := (re * re + im * im).toNat

/-- `mag_milli` (R146): the magnitude rounded to the nearest thousandth. -/
def magOf (re im : Int) : Nat :=
  let n := 1000000 * sumsq re im
  let q := isqrt n
  if n - q * q ≤ q then q else q + 1

/-- `subst_fp` (R170). -/
def substFp (raw : BitVec 16) : BitVec 10 :=
  if raw.toNat < Config.accCap then BitVec.ofNat 10 raw.toNat else 0

/-- `start` of `window` (R140): the natural subtraction stops at 0, which is the `max`. -/
def windowStart (fp : BitVec 10) : BitVec 10 := BitVec.ofNat 10 (fp.toNat - Config.preMargin)

/-- `end` of `window` (R140). -/
def windowEnd (fp : BitVec 10) : BitVec 10 :=
  BitVec.ofNat 10 (min (Config.accCap - 1) (fp.toNat + Config.postMargin))

/-- `copy_taken` (R196). -/
def copyTaken (len : Nat) : Bool := decide (len ≤ Config.rxBufCap) && decide (Config.trailerLen < len)

/-- The LEN of S_GOOD_COPY's request, `frame_len - TRAILER_LEN` (R197), where it is one a request word can carry: from 1
to 65535 (30_encoding.md R95, R101). -/
def payloadLen (frameLen : Word32) : Option (BitVec 16) :=
  if Config.trailerLen < frameLen.toNat ∧ frameLen.toNat - Config.trailerLen < 65536 then
    some (BitVec.ofNat 16 (frameLen.toNat - Config.trailerLen))
  else none

/-- `x[idx][9:0]` (R148, R233). -/
def idxLow (s : State) : BitVec 10 := s.idx.extractLsb' 0 10

end Sys2Proof.Machine
end

