-- ==== Sys2Proof/Machine/Ops.lean ====
section
/-! DEFINITION. The operations the meanings share: the frame buffer, fault entry, reset, one port transaction, one
emission, and what the world outside can do to the machine. -/

namespace Sys2Proof.Machine

/-- The canonical form of the frame buffer: addresses strictly rising, each below `RX_BUF_CAP` (10_state.md R27). -/
abbrev Memory.wf (m : Memory) : Prop :=
  (m.map Prod.fst).Pairwise (· < ·) ∧ ∀ c ∈ m, c.1 < Config.rxBufCap

/-- The byte at an address; none where nothing has been written since reset (R43; log 2). -/
def Memory.read : Memory → Nat → Option Byte
  | [], _ => none
  | (b, v) :: m, a => if a = b then some v else Memory.read m a

/-- Put a byte at an address, in order. -/
def Memory.write : Memory → Nat → Byte → Memory
  | [], a, v => [(a, v)]
  | (b, w) :: m, a, v =>
    if a < b then (a, v) :: (b, w) :: m
    else if a = b then (a, v) :: m
    else (b, w) :: Memory.write m a v

/-- Write bytes from an address on; none where one of the addresses does not exist (R27). -/
def Memory.writeBytes : Memory → Nat → List Byte → Option Memory
  | m, _, [] => some m
  | m, a, v :: vs => if a < Config.rxBufCap then Memory.writeBytes (Memory.write m a v) (a + 1) vs else none

/-- Every byte at 0x00 (43_receive_state_machine.md R191). -/
def Memory.cleared : Memory := (List.range Config.rxBufCap).map fun k => (k, (0x00 : Byte))

/-- `raise Fault(code)` (60_exceptions.md R233): the fault registers and `st` are written, and nothing else. -/
def State.raiseFault (s : State) (code : Code) : State :=
  { s with
    faultCode  := code
    faultState := s.st
    faultIdx   := if code = fAccRead then idxLow s else 0
    st         := 0xD }

/-- The reset input (70_reset_and_hazards.md R260, R262): the registers and the observation at their reset values, the
unspecified ones at the values drawn for this reset. The radio and the other inputs are not touched. It is the only way
out of FAULTED: there is no return from a fault (60_exceptions.md R241). -/
def State.applyReset (s : State) : State :=
  { State.resetWith s.rstDraw s.params with
    responses := s.responses
    sinkHold  := s.sinkHold
    rstIn     := s.rstIn
    freeCount := s.freeCount }

/-- A request answered: its response is taken, and both are observed (20_memory.md R60, R69). -/
def State.answered (s : State) (word : BitVec 64) (r : Response) (rest : List Response) : State :=
  { s with responses := rest, trace := s.trace ++ [.request word r] }

/-- One transaction of the collaborator port (00_scope.md R14; 20_memory.md R60, R62). With no response yet the step
holds and nothing changes. FAULT raises `code` and nothing else of the step happens. OK hands its data to the rest of the
step; a response without the request's data is refused (30_encoding.md R99). -/
def transact {α : Type} (word : BitVec 64) (take : Response → Option α) (code : Code) (s : State)
    (k : α → State → Result) : Result :=
  match s.responses with
  | [] => .next s
  | .fault :: rest => .next ((s.answered word .fault rest).raiseFault code)
  | r :: rest =>
    match take r with
    | some a => k a (s.answered word r rest)
    | none => .refused .badResponse

/-- `Emit` (R15): a whole line is appended to the telemetry stream in one step. While the sink holds, the step holds
(20_memory.md R68). -/
def emit (bs : List Byte) (s : State) (k : State → Result) : Result :=
  if s.sinkHold then .next s else k { s with trace := s.trace ++ [.line bs] }

/-- A test bench's word taken away from the boundary (log 7). -/
def State.taken (s : State) : State := { s with bench := [] }

/-- A request word presented on its own (logs 7, 8): one transaction, after which the word is gone. While no response has
come, the word stays. -/
def requestAlone {α : Type} (word : BitVec 64) (take : Response → Option α) (code : Code) (s : State) : Result :=
  if s.responses.isEmpty then .next s else transact word take code s.taken fun _ t => .next t

/-- A telemetry line presented on its own (logs 7, 10): one emission, after which the line is gone. -/
def lineAlone (bs : List Byte) (s : State) : Result :=
  if s.sinkHold then .next s else emit bs s.taken .next

/-- The telemetry stream (20_memory.md R58): the bytes of the lines of the observation, in order. -/
def State.telemetry (s : State) : List Byte :=
  s.trace.flatMap fun
    | .line bs => bs
    | .request _ _ => []
    | .sample _ _ => []

/-- OUTSIDE: the collaborator will answer `r` after what it already will answer (20_memory.md R65). -/
def State.deliver (s : State) (r : Response) : State := { s with responses := s.responses ++ [r] }

/-- OUTSIDE: the sink begins or ends to hold (20_memory.md R68). -/
def State.setSinkHold (s : State) (b : Bool) : State := { s with sinkHold := b }

/-- OUTSIDE: the reset input is asserted or released (70_reset_and_hazards.md R260). Whenever it is released the block
holds the values of 10_state.md R43, however short the assertion was. DESIGN CHOICE (log 24): it holds them from the
assertion on. Releasing an input that is not asserted is no event. -/
def State.setReset (s : State) (b : Bool) : State :=
  if b || s.rstIn then { s.applyReset with rstIn := b } else s

/-- OUTSIDE: the values the unspecified registers take at the next reset (10_state.md R43). -/
def State.setResetDraw (s : State) (u : Unspecified) : State := { s with rstDraw := u }

/-- OUTSIDE, a test bench only (log 7): bytes presented at the block's boundary. -/
def State.present (s : State) (bs : List Byte) : State := { s with bench := bs }

end Sys2Proof.Machine
end

