-- ==== Sys2Proof/Machine/Accumulator.lean ====
section
/-! DEFINITION. The accumulator record as a row of its own (40_sample_decoder.md R120). -/

namespace Sys2Proof.Machine

/-- ACC_RECORD: the decoder's results "go out as `toS32(re)` and `toS32(im)`" and "the function writes no state" (R120), so
the pair is observed and no register changes (log 9). -/
def execAccRecord (w : BitVec 56) (s : State) : Result :=
  let p := decodeSample (recordOfWord w)
  .next { s.taken with trace := s.trace ++ [.sample (toS32 p.1) (toS32 p.2)] }

end Sys2Proof.Machine
end

