-- ==== Sys2Proof/Machine/Text.lean ====
section
/-! DEFINITION. The number spellings and the four telemetry lines (30_encoding.md R84 to R93), as ASCII bytes. -/

namespace Sys2Proof.Machine

/-- The ASCII digit of a number below 10 (R88). -/
def digit (d : Nat) : Byte := BitVec.ofNat 8 (0x30 + d)

/-- The decimal spelling of a number below `10 ^ (fuel + 1)`, most significant digit first. -/
def udecGo : Nat → Nat → List Byte
  | 0, n => [digit (n % 10)]
  | fuel + 1, n => if n < 10 then [digit n] else udecGo fuel (n / 10) ++ [digit (n % 10)]

/-- `udec` (R88): no leading zeros, and `udec 0` is one zero. A number has at most one more decimal digit than it has
`Nat.log2`. -/
def udec (n : Nat) : List Byte := udecGo (Nat.log2 n) n

/-- `sdec` (R89): a minus sign (0x2D) before the spelling of a negative number's absolute value. -/
def sdec (v : Int) : List Byte := if v < 0 then 0x2D :: udec v.natAbs else udec v.natAbs

/-- `d3` (R90): exactly three digits. -/
def d3 (r : Nat) : List Byte := [digit (r / 100), digit (r / 10 % 10), digit (r % 10)]

/-- `mdec` (R90): a count of thousandths with its point (0x2E). -/
def mdec (m : Nat) : List Byte := udec (m / 1000) ++ 0x2E :: d3 (m % 1000)

/-- Carriage return and line feed (R84). -/
def crlf : List Byte := [0x0D, 0x0A]

/-- `CIR_META,FP=` (R85). -/
def textMeta : List Byte := [0x43, 0x49, 0x52, 0x5F, 0x4D, 0x45, 0x54, 0x41, 0x2C, 0x46, 0x50, 0x3D]

/-- `,START=` (R85). -/
def textStart : List Byte := [0x2C, 0x53, 0x54, 0x41, 0x52, 0x54, 0x3D]

/-- `,END=` (R85). -/
def textEnd : List Byte := [0x2C, 0x45, 0x4E, 0x44, 0x3D]

/-- `CIR,` (R87). -/
def textCir : List Byte := [0x43, 0x49, 0x52, 0x2C]

/-- The metadata line (R85). -/
def metaLine (fp start stop : Nat) : List Byte :=
  textMeta ++ udec fp ++ textStart ++ udec start ++ textEnd ++ udec stop ++ crlf

/-- The begin marker, 13 bytes (R86). -/
def beginLine : List Byte :=
  [0x46, 0x52, 0x41, 0x4D, 0x45, 0x5F, 0x42, 0x45, 0x47, 0x49, 0x4E, 0x0D, 0x0A]

/-- The sample line (R87); `mag` counts thousandths. -/
def cirLine (i : Nat) (re im : Int) (mag : Nat) : List Byte :=
  textCir ++ udec i ++ 0x2C :: sdec re ++ 0x2C :: sdec im ++ 0x2C :: mdec mag ++ crlf

/-- The end marker, 11 bytes (R91). -/
def endLine : List Byte :=
  [0x46, 0x52, 0x41, 0x4D, 0x45, 0x5F, 0x45, 0x4E, 0x44, 0x0D, 0x0A]

end Sys2Proof.Machine
end

