-- ==== Sys2Proof/Machine/Extractor.lean ====
section
/-! DEFINITION. The two per-sample steps of the CIR Window Extractor (41_cir_window_extractor.md R148, R149). -/

namespace Sys2Proof.Machine

/-- S_EXT_READ (R148): one record is read, decoded and measured. -/
def execSExtRead (s : State) : Result :=
  transact (accWord (idxLow s)) takeRecord fAccRead s fun r t =>
    let p := decodeSample r
    .next { t with
      re       := toS32 p.1
      im       := toS32 p.2
      magMilli := BitVec.ofNat 28 (magOf p.1 p.2)
      st       := 0x9 }

/-- `x[idx] <- x[idx] + 1` (R149). At 2047 the sum leaves the 11 bits of `idx`, and the register takes a free value
(log 11; no run reaches it, 10_state.md R31). -/
def bumpIdx (s : State) : State :=
  if s.idx.toNat + 1 < 2048 then { s with idx := BitVec.ofNat 11 (s.idx.toNat + 1) }
  else { s with idx := Config.freeIdx s.freeCount, freeCount := s.freeCount + 1 }

/-- S_EXT_EMIT (R149): one CIR line; the test is on the new index. -/
def execSExtEmit (s : State) : Result :=
  emit (cirLine s.idx.toNat s.re.toInt s.im.toInt s.magMilli.toNat) s fun t =>
    .next { bumpIdx t with st := if t.idx.toNat + 1 ≤ t.winEnd.toNat then 0x8 else 0xA }

end Sys2Proof.Machine
end

