-- ==== Sys2Proof/Machine/Framer.lean ====
section
/-! DEFINITION. The framing steps of the Diagnostics Reporter (42_diagnostics_framer.md R171 to R173). -/

namespace Sys2Proof.Machine

/-- S_REP_META (R171). -/
def execSRepMeta (s : State) : Result :=
  emit (metaLine s.fp.toNat s.winStart.toNat s.winEnd.toNat) s fun t => .next { t with st := 0x7 }

/-- S_REP_BEGIN (R172): an empty window goes straight to the end marker (41_cir_window_extractor.md R144). -/
def execSRepBegin (s : State) : Result :=
  emit beginLine s fun t =>
    .next { t with
      idx := t.winStart.setWidth 11
      st  := if t.winStart.toNat ≤ t.winEnd.toNat then 0x8 else 0xA }

/-- S_REP_END (R173). -/
def execSRepEnd (s : State) : Result :=
  emit endLine s fun t => .next { t with st := 0xB }

end Sys2Proof.Machine
end

