-- ==== Sys2Proof/Machine/Port.lean ====
section
/-! DEFINITION. The request words as rows of their own (30_encoding.md R96, R98): each is one transaction of the
collaborator port (00_scope.md R14), with the fault code of 60_exceptions.md R231 (log 8). -/

namespace Sys2Proof.Machine

/-- ARM_RX. -/
def execArmRx (s : State) : Result := requestAlone armWord takeAck fArm s

/-- READ_REG32 of the status register. -/
def execReadReg32Status (s : State) : Result :=
  requestAlone (regReadWord Config.ridStatus) takeWord fStatusRead s

/-- READ_REG32 of the frame-information register. -/
def execReadReg32Rxinfo (s : State) : Result :=
  requestAlone (regReadWord Config.ridRxinfo) takeWord fRxinfoRead s

/-- The code of a WRITE_CLEAR32 fault (R231): `F_CLEAR_GOOD` for `GOOD_MASK`, `F_CLEAR_ERR` for `ERR_MASK`. For any other
mask the spec states none, and it is one of the two, left free (log 8). -/
def clearCode (s : State) (mask : Word32) : Code :=
  if mask = s.params.goodMask then fClearGood
  else if mask = s.params.errMask then fClearErr
  else if Config.freeClearIsGood s.freeCount then fClearGood else fClearErr

/-- WRITE_CLEAR32 of the status register. Every use of the free code advances its counter. -/
def execWriteClear32 (mask : Word32) (s : State) : Result :=
  if s.responses.isEmpty then .next s
  else if mask = s.params.goodMask ∨ mask = s.params.errMask then
    requestAlone (clearWord mask) takeAck (clearCode s mask) s
  else requestAlone (clearWord mask) takeAck (clearCode s mask) { s with freeCount := s.freeCount + 1 }

/-- READ_RX_DATA of `len` bytes at offset 0 (R197): LEN 0 is reserved (R101), and bytes beyond `RXMEM_SIZE` do not exist
(20_memory.md R52). -/
def execReadRxData (len : BitVec 16) (s : State) : Result :=
  if len = 0 then .refused .noRequestWord
  else if s.params.rxmemSize < len.toNat then .fault .noSuchRxByte
  else requestAlone (rxDataWord len) (takeBytes len.toNat) fPayloadRead s

/-- READ_ACC of one sample index (R148). -/
def execReadAcc (index : BitVec 10) (s : State) : Result :=
  requestAlone (accWord index) takeRecord fAccRead s

/-- READ_DIAG (R198). -/
def execReadDiag (s : State) : Result := requestAlone diagWord takeDiag fDiagRead s

end Sys2Proof.Machine
end

