-- ==== Sys2Proof/Machine/Sequencer.lean ====
section
/-! DEFINITION. The operations of 43_receive_state_machine.md (ARMED, WAITING, FRAME_GOOD outside the report,
FRAME_ERROR) and of 60_exceptions.md (FAULTED, the reserved codes). -/

namespace Sys2Proof.Machine

/-- S_ARM_CLEAR (R191). -/
def execSArmClear (s : State) : Result :=
  .next { s with buf := Memory.cleared, payLen := 0, st := 0x1 }

/-- S_ARM_REQ (R192). -/
def execSArmReq (s : State) : Result :=
  transact armWord takeAck fArm s fun _ t => .next { t with st := 0x2 }

/-- S_POLL (R193). -/
def execSPoll (s : State) : Result :=
  transact (regReadWord Config.ridStatus) takeWord fStatusRead s fun w t =>
    .next { t with status := w, st := pollTarget (classOf t.params w) }

/-- S_GOOD_LEN (R195). -/
def execSGoodLen (s : State) : Result :=
  transact (regReadWord Config.ridRxinfo) takeWord fRxinfoRead s fun w t =>
    let len := w &&& t.params.rxlenMask
    .next { t with frameLen := len, st := if copyTaken len.toNat then 0x4 else 0x5 }

/-- S_GOOD_COPY (R197). A length that no request word carries is refused, and one beyond the receive memory or the buffer
faults (log 12); R196 keeps a run from all three. -/
def execSGoodCopy (s : State) : Result :=
  match payloadLen s.frameLen with
  | none => .refused .noRequestWord
  | some n =>
    if s.params.rxmemSize < n.toNat then .fault .noSuchRxByte
    else transact (rxDataWord n) (takeBytes n.toNat) fPayloadRead s fun bs t =>
      match Memory.writeBytes t.buf 0 bs with
      | some m => .next { t with buf := m, payLen := n.setWidth 8, st := 0x5 }
      | none => .fault .noSuchBufferByte

/-- S_GOOD_DIAG (R198). -/
def execSGoodDiag (s : State) : Result :=
  transact diagWord takeDiag fDiagRead s fun raw t =>
    let f := substFp raw
    .next { t with fpRaw := raw, fp := f, winStart := windowStart f, winEnd := windowEnd f, st := 0x6 }

/-- S_GOOD_CLR (R199). -/
def execSGoodClr (s : State) : Result :=
  transact (clearWord s.params.goodMask) takeAck fClearGood s fun _ t => .next { t with st := 0x0 }

/-- S_ERR_CLR (R200). -/
def execSErrClr (s : State) : Result :=
  transact (clearWord s.params.errMask) takeAck fClearErr s fun _ t => .next { t with st := 0x0 }

/-- S_FAULT (R234): no step is enabled; the block holds (log 15). -/
def execSFault (s : State) : Result := .next s

/-- Codes 0xE and 0xF (R235): `F_BAD_STATE`, always. -/
def execSReserved (s : State) : Result := .next (s.raiseFault fBadState)

end Sys2Proof.Machine
end

