-- ==== Sys2Proof/Machine/Telemetry.lean ====
section
/-! DEFINITION. The telemetry lines as rows of their own (30_encoding.md R84 to R91): each is one `Emit` of its bytes
(00_scope.md R15; log 10). -/

namespace Sys2Proof.Machine

/-- TLM_CIR_META (R85). -/
def execTlmCirMeta (fp start stop : BitVec 10) (s : State) : Result :=
  lineAlone (metaLine fp.toNat start.toNat stop.toNat) s

/-- TLM_FRAME_BEGIN (R86). -/
def execTlmFrameBegin (s : State) : Result := lineAlone beginLine s

/-- TLM_CIR (R87). -/
def execTlmCir (index : BitVec 10) (real imag : BitVec 18) (mag : BitVec 28) (s : State) : Result :=
  lineAlone (cirLine index.toNat real.toInt imag.toInt mag.toNat) s

/-- TLM_FRAME_END (R91). -/
def execTlmFrameEnd (s : State) : Result := lineAlone endLine s

end Sys2Proof.Machine
end

