-- ==== Sys2Proof/Syntax.lean ====
section
/-! DEFINITION. The rows of spec/opcode_table.json, one constructor each (00_scope.md R2). -/

namespace Sys2Proof

/-- One row of the opcode table with its operands. The first fifteen are the sequencer's operations, selected by the
state code (10_state.md R21); then the seven request words (30_encoding.md R98), the four telemetry lines (R84) and the
accumulator record (R81). -/
inductive Instr where
  | sArmClear
  | sArmReq
  | sPoll
  | sGoodLen
  | sGoodCopy
  | sGoodDiag
  | sRepMeta
  | sRepBegin
  | sExtRead
  | sExtEmit
  | sRepEnd
  | sGoodClr
  | sErrClr
  | sFault
  /-- Codes 0xE and 0xF: `low` is bit 0 of the code. -/
  | sReserved (low : BitVec 1)
  | armRx
  | readReg32Status
  | readReg32Rxinfo
  | writeClear32 (mask : Word32)
  | readRxData (len : BitVec 16)
  | readAcc (index : BitVec 10)
  | readDiag
  | tlmCirMeta (fp start stop : BitVec 10)
  | tlmFrameBegin
  /-- `real` and `imag` are 18-bit two's-complement values (R94); `mag` counts thousandths (R87). -/
  | tlmCir (index : BitVec 10) (real imag : BitVec 18) (mag : BitVec 28)
  | tlmFrameEnd
  /-- The record as the 56-bit little-endian word `W` of R81. -/
  | accRecord (w : BitVec 56)
  deriving DecidableEq, Repr

end Sys2Proof
end

