-- ==== Sys2Proof/Machine/Dispatch.lean ====
section
/-! DEFINITION. One arm per row of the opcode table. -/

namespace Sys2Proof.Machine

def exec (i : Instr) (s : State) : Host.Outcome State Fault Refusal :=
  match i with
  | .sArmClear => Sys2Proof.Machine.execSArmClear s
  | .sArmReq => Sys2Proof.Machine.execSArmReq s
  | .sPoll => Sys2Proof.Machine.execSPoll s
  | .sGoodLen => Sys2Proof.Machine.execSGoodLen s
  | .sGoodCopy => Sys2Proof.Machine.execSGoodCopy s
  | .sGoodDiag => Sys2Proof.Machine.execSGoodDiag s
  | .sRepMeta => Sys2Proof.Machine.execSRepMeta s
  | .sRepBegin => Sys2Proof.Machine.execSRepBegin s
  | .sExtRead => Sys2Proof.Machine.execSExtRead s
  | .sExtEmit => Sys2Proof.Machine.execSExtEmit s
  | .sRepEnd => Sys2Proof.Machine.execSRepEnd s
  | .sGoodClr => Sys2Proof.Machine.execSGoodClr s
  | .sErrClr => Sys2Proof.Machine.execSErrClr s
  | .sFault => Sys2Proof.Machine.execSFault s
  | .sReserved _ => Sys2Proof.Machine.execSReserved s
  | .armRx => Sys2Proof.Machine.execArmRx s
  | .readReg32Status => Sys2Proof.Machine.execReadReg32Status s
  | .readReg32Rxinfo => Sys2Proof.Machine.execReadReg32Rxinfo s
  | .writeClear32 mask => Sys2Proof.Machine.execWriteClear32 mask s
  | .readRxData len => Sys2Proof.Machine.execReadRxData len s
  | .readAcc index => Sys2Proof.Machine.execReadAcc index s
  | .readDiag => Sys2Proof.Machine.execReadDiag s
  | .tlmCirMeta fp start stop => Sys2Proof.Machine.execTlmCirMeta fp start stop s
  | .tlmFrameBegin => Sys2Proof.Machine.execTlmFrameBegin s
  | .tlmCir index real imag mag => Sys2Proof.Machine.execTlmCir index real imag mag s
  | .tlmFrameEnd => Sys2Proof.Machine.execTlmFrameEnd s
  | .accRecord w => Sys2Proof.Machine.execAccRecord w s

end Sys2Proof.Machine
end

