-- ==== Sys2Proof/WellFormed.lean ====
section
/-! DEFINITION. The checks on operands that their types do not make. -/

namespace Sys2Proof

/-- The largest magnitude the block can print, in thousandths (30_encoding.md R94; 41_cir_window_extractor.md R146). -/
abbrev maxMagMilli : Nat := 185363800

/-- A LEN of 0 is a reserved encoding (30_encoding.md R101), and a printed magnitude is at most `185363.800` (R94).
Every other operand has the range of its type. -/
def Instr.wf : Instr → Bool
  | .readRxData len => len != 0
  | .tlmCir _ _ _ mag => decide (mag.toNat ≤ maxMagMilli)
  | .sArmClear | .sArmReq | .sPoll | .sGoodLen | .sGoodCopy | .sGoodDiag | .sRepMeta | .sRepBegin | .sExtRead
  | .sExtEmit | .sRepEnd | .sGoodClr | .sErrClr | .sFault | .sReserved _ | .armRx | .readReg32Status
  | .readReg32Rxinfo | .writeClear32 _ | .readAcc _ | .readDiag | .tlmCirMeta _ _ _ | .tlmFrameBegin | .tlmFrameEnd
  | .accRecord _ => true

end Sys2Proof
end

