-- ==== Sys2Proof/Decode.lean ====
section
/-! DEFINITION. From bytes to a row of the opcode table and back. The length picks the format (log 19): one byte is a
state code, seven an accumulator record, eight a request word, more than eight a telemetry line. -/

namespace Sys2Proof

open Sys2Proof.Machine

/-- Why bytes are no encoding of a row. -/
inductive DecodeError where
  /-- No format has this length. -/
  | badLength
  /-- A state code has four bits (30_encoding.md R103). -/
  | codeTooWide
  /-- OP 0x0 or 0x7 to 0xF (R96, R101). -/
  | reservedOp
  /-- READ_REG32 with an identifier 0x2 to 0xF (R97), or WRITE_CLEAR32 with one other than the status register's: that the
  identifier 0x1 is refused there is a DESIGN CHOICE (log 19), since R98 has no such word. -/
  | reservedRid
  /-- An identifier on an opcode that takes none (R101). -/
  | strayRid
  /-- A nonzero reserved field (R95, R101). -/
  | reservedField
  /-- A nonzero `A` or `B` where R95 says "else 0"; or a nonzero MODE of ARM_RX or OFFSET of READ_RX_DATA, which R95 names as
  fields and R101 does not reserve: that these two are refused is a DESIGN CHOICE (log 19), since the words of R98 hold 0
  there. -/
  | strayField
  /-- A LEN of 0 (R101). -/
  | zeroLen
  /-- A sample index of 1024 or more (20_memory.md R51, R64). -/
  | indexRange
  /-- Not one of the four lines (R84), or a number spelled otherwise than R88 to R90 say, or out of the range of R94
  (that other spellings are refused is a DESIGN CHOICE, log 19). -/
  | notALine
  deriving DecidableEq, Repr

/-- The number whose bytes, least significant first, are given. -/
def ofLeBytes : List Byte → Nat
  | [] => 0
  | b :: bs => b.toNat + 256 * ofLeBytes bs

/-- The first `n` bytes of a number, least significant first. -/
def leBytes : Nat → Nat → List Byte
  | 0, _ => []
  | n + 1, w => BitVec.ofNat 8 w :: leBytes n (w / 256)

/-- The operation a state code selects, total over the sixteen codes (10_state.md R21; 30_encoding.md R100, R102). -/
def decodeCode (c : Code) : Instr :=
  match c.toNat with
  | 0x0 => .sArmClear
  | 0x1 => .sArmReq
  | 0x2 => .sPoll
  | 0x3 => .sGoodLen
  | 0x4 => .sGoodCopy
  | 0x5 => .sGoodDiag
  | 0x6 => .sRepMeta
  | 0x7 => .sRepBegin
  | 0x8 => .sExtRead
  | 0x9 => .sExtEmit
  | 0xA => .sRepEnd
  | 0xB => .sGoodClr
  | 0xC => .sErrClr
  | 0xD => .sFault
  | _ => .sReserved (c.setWidth 1)

/-- A 64-bit request word (R95 to R98), the reserved encodings of R101 refused by name. DESIGN CHOICE (log 19): a nonzero
MODE of ARM_RX, a nonzero OFFSET of READ_RX_DATA and WRITE_CLEAR32 with the identifier 0x1 are refused too: R101 reserves
none of them, and R98, which lists the exact words the block issues, has no such word. -/
def decodeRequest (w : BitVec 64) : Except DecodeError Instr :=
  let op := w.extractLsb' 60 4
  let rid := w.extractLsb' 56 4
  let a := w.extractLsb' 32 16
  let b := w.extractLsb' 0 32
  if w.extractLsb' 48 8 ≠ 0 then .error .reservedField
  else match op.toNat with
    | 0x1 =>
      if rid ≠ 0 then .error .strayRid
      else if a ≠ Config.armImmediate ∨ b ≠ 0 then .error .strayField
      else .ok .armRx
    | 0x2 =>
      if a ≠ 0 ∨ b ≠ 0 then .error .strayField
      else if rid = Config.ridStatus then .ok .readReg32Status
      else if rid = Config.ridRxinfo then .ok .readReg32Rxinfo
      else .error .reservedRid
    | 0x3 =>
      if rid ≠ Config.ridStatus then .error .reservedRid
      else if a ≠ 0 then .error .strayField
      else .ok (.writeClear32 b)
    | 0x4 =>
      if rid ≠ 0 then .error .strayRid
      else if b ≠ 0 then .error .strayField
      else if a = 0 then .error .zeroLen
      else .ok (.readRxData a)
    | 0x5 =>
      if rid ≠ 0 then .error .strayRid
      else if b ≠ 0 then .error .strayField
      else if Config.accCap ≤ a.toNat then .error .indexRange
      else .ok (.readAcc (a.setWidth 10))
    | 0x6 =>
      if rid ≠ 0 then .error .strayRid
      else if a ≠ 0 ∨ b ≠ 0 then .error .strayField
      else .ok .readDiag
    | _ => .error .reservedOp

/-- What is left of the bytes after a literal at their start. -/
def stripText : List Byte → List Byte → Option (List Byte)
  | [], bs => some bs
  | _ :: _, [] => none
  | p :: ps, b :: bs => if p = b then stripText ps bs else none

/-- Whether a byte is `0` to `9` (R88). -/
def isDigit (b : Byte) : Bool := decide (0x30 ≤ b.toNat) && decide (b.toNat ≤ 0x39)

/-- The number spelled by the digits at the start, read after `acc`, and the bytes after them. -/
def readDigits (acc : Nat) : List Byte → Nat × List Byte
  | [] => (acc, [])
  | b :: bs => if isDigit b then readDigits (acc * 10 + (b.toNat - 0x30)) bs else (acc, b :: bs)

/-- A number with an optional minus sign (R89). -/
def readSigned : List Byte → Int × List Byte
  | [] => (0, [])
  | b :: bs =>
    if b = 0x2D then
      let r := readDigits 0 bs
      (-(r.1 : Int), r.2)
    else
      let r := readDigits 0 (b :: bs)
      ((r.1 : Int), r.2)

/-- The fields of a metadata line (R85), their spelling not yet checked. -/
def readMeta (bs : List Byte) : Option Instr :=
  (stripText textMeta bs).bind fun r0 =>
  let fp := readDigits 0 r0
  (stripText textStart fp.2).bind fun r1 =>
  let start := readDigits 0 r1
  (stripText textEnd start.2).bind fun r2 =>
  let stop := readDigits 0 r2
  some (.tlmCirMeta (BitVec.ofNat 10 fp.1) (BitVec.ofNat 10 start.1) (BitVec.ofNat 10 stop.1))

/-- The fields of a sample line (R87), their spelling not yet checked. -/
def readCir (bs : List Byte) : Option Instr :=
  (stripText textCir bs).bind fun r0 =>
  let index := readDigits 0 r0
  (stripText [0x2C] index.2).bind fun r1 =>
  let real := readSigned r1
  (stripText [0x2C] real.2).bind fun r2 =>
  let imag := readSigned r2
  (stripText [0x2C] imag.2).bind fun r3 =>
  let whole := readDigits 0 r3
  (stripText [0x2E] whole.2).bind fun r4 =>
  let part := readDigits 0 r4
  some (.tlmCir (BitVec.ofNat 10 index.1) (BitVec.ofInt 18 real.1) (BitVec.ofInt 18 imag.1)
    (BitVec.ofNat 28 (whole.1 * 1000 + part.1)))

/-- The bytes of a telemetry line (R85 to R87, R91); no other row is a line. -/
def lineBytes : Instr → List Byte
  | .tlmCirMeta fp start stop => metaLine fp.toNat start.toNat stop.toNat
  | .tlmFrameBegin => beginLine
  | .tlmCir i re im mag => cirLine i.toNat re.toInt im.toInt mag.toNat
  | .tlmFrameEnd => endLine
  | _ => []

/-- A telemetry line, told by its start (R92). The fields are read, and then the line must be exactly the spelling of
what was read (R88 to R90), within the ranges of R94. -/
def decodeLine (bs : List Byte) : Except DecodeError Instr :=
  if bs = beginLine then .ok .tlmFrameBegin
  else if bs = endLine then .ok .tlmFrameEnd
  else match (readMeta bs).or (readCir bs) with
    | none => .error .notALine
    | some i => if i.wf ∧ lineBytes i = bs then .ok i else .error .notALine

/-- What may stand at the block's boundary: a record, a request word or a line (never a state code, which only the
state register holds). A request word's bytes come least significant first (log 19). -/
def decodeBoundary (bs : List Byte) : Except DecodeError Instr :=
  if bs.length = 7 then .ok (.accRecord (BitVec.ofNat 56 (ofLeBytes bs)))
  else if bs.length = 8 then decodeRequest (BitVec.ofNat 64 (ofLeBytes bs))
  else if 8 < bs.length then decodeLine bs
  else .error .badLength

/-- The row whose encoding the bytes are, total on any bytes. -/
def decode (bs : List Byte) : Except DecodeError Instr :=
  match bs with
  | [b] => if 16 ≤ b.toNat then .error .codeTooWide else .ok (decodeCode (b.setWidth 4))
  | _ => decodeBoundary bs

/-- The state code of an operation (10_state.md R21); 0 for a row that is none. -/
def stateCode : Instr → Code
  | .sArmClear => 0x0
  | .sArmReq => 0x1
  | .sPoll => 0x2
  | .sGoodLen => 0x3
  | .sGoodCopy => 0x4
  | .sGoodDiag => 0x5
  | .sRepMeta => 0x6
  | .sRepBegin => 0x7
  | .sExtRead => 0x8
  | .sExtEmit => 0x9
  | .sRepEnd => 0xA
  | .sGoodClr => 0xB
  | .sErrClr => 0xC
  | .sFault => 0xD
  | .sReserved low => (0x7 : BitVec 3) ++ low
  | _ => 0x0

/-- The bytes of a row, from the encoding tables (10_state.md R21; 30_encoding.md R81, R85 to R87, R91, R98). -/
def encode : Instr → List Byte
  | .armRx => leBytes 8 armWord.toNat
  | .readReg32Status => leBytes 8 (regReadWord Config.ridStatus).toNat
  | .readReg32Rxinfo => leBytes 8 (regReadWord Config.ridRxinfo).toNat
  | .writeClear32 mask => leBytes 8 (clearWord mask).toNat
  | .readRxData len => leBytes 8 (rxDataWord len).toNat
  | .readAcc index => leBytes 8 (accWord index).toNat
  | .readDiag => leBytes 8 diagWord.toNat
  | .tlmCirMeta fp start stop => lineBytes (.tlmCirMeta fp start stop)
  | .tlmFrameBegin => lineBytes .tlmFrameBegin
  | .tlmCir i re im mag => lineBytes (.tlmCir i re im mag)
  | .tlmFrameEnd => lineBytes .tlmFrameEnd
  | .accRecord w => leBytes 7 w.toNat
  | .sReserved low => [(stateCode (.sReserved low)).setWidth 8]
  | .sArmClear => [(stateCode .sArmClear).setWidth 8]
  | .sArmReq => [(stateCode .sArmReq).setWidth 8]
  | .sPoll => [(stateCode .sPoll).setWidth 8]
  | .sGoodLen => [(stateCode .sGoodLen).setWidth 8]
  | .sGoodCopy => [(stateCode .sGoodCopy).setWidth 8]
  | .sGoodDiag => [(stateCode .sGoodDiag).setWidth 8]
  | .sRepMeta => [(stateCode .sRepMeta).setWidth 8]
  | .sRepBegin => [(stateCode .sRepBegin).setWidth 8]
  | .sExtRead => [(stateCode .sExtRead).setWidth 8]
  | .sExtEmit => [(stateCode .sExtEmit).setWidth 8]
  | .sRepEnd => [(stateCode .sRepEnd).setWidth 8]
  | .sGoodClr => [(stateCode .sGoodClr).setWidth 8]
  | .sErrClr => [(stateCode .sErrClr).setWidth 8]
  | .sFault => [(stateCode .sFault).setWidth 8]

/-- The bytes of a table word: bit 0 is the least significant bit of the first byte. A state code of four bits takes one
byte. -/
def tableBytes (nbits w : Nat) : List Byte := leBytes ((nbits + 7) / 8) w

/-- What the decoder reads from a table word. -/
def decodeTableWord (nbits w : Nat) : Option Instr :=
  match decode (tableBytes nbits w) with
  | .ok i => some i
  | .error _ => none

end Sys2Proof
end

