-- ==== Sys2Proof/Machine/Fetch.lean ====
section
/-! DEFINITION. What the next step does (60_exceptions.md R239), and how a table word is placed so that the next step
runs it. -/

namespace Sys2Proof.Machine

/-- What the next step does. -/
inductive Fetched where
  | reset
  | run (i : Instr)
  | refuse (r : Refusal)
  deriving DecidableEq, Repr

/-- Reset comes before everything (R239(a)): while it is asserted no operation runs (70_reset_and_hazards.md R260). In
FAULTED nothing but reset happens (R211, R234); a word that a test bench presents comes before the sequencer's operation,
which is the one `st` selects (10_state.md R21). Ill-formed parameters are refused (00_scope.md R9; D6). -/
def fetch (s : State) : Fetched :=
  if s.params.wf = false then .refuse .badParameters
  else if s.rstIn then .reset
  else if s.st = 0xD then .run .sFault
  else if s.bench.isEmpty then .run (decodeCode s.st)
  else match decodeBoundary s.bench with
    | .ok i => .run i
    | .error _ => .refuse .undecodableBench

/-- A table word placed for the next step (log 7). Reset, if asserted, is released (R260). A state code goes to
`st` and the boundary is left free; any other row's bytes are presented at the boundary, and a block in FAULTED, which
would not look at them, is put in S_ARM_CLEAR. -/
def placeWord (s : State) (bs : List Byte) : State :=
  match bs with
  | [b] => { s.setReset false with st := b.setWidth 4, bench := [] }
  | _ => { s.setReset false with
      bench := bs
      st := if (s.setReset false).st = 0xD then 0x0 else (s.setReset false).st }

end Sys2Proof.Machine
end

