-- ==== Sys2Proof/Safety.lean ====
section
/-! DEFINITION. The terms the claims use: what a step of the block itself is, what the port may carry, the invariant of the
block's runs, and the groups of telemetry lines. -/

namespace Sys2Proof.Safety

open Sys2Proof.Machine

/-- A state in which the next step is the block's own: legal parameters, reset released, nothing at the boundary. -/
def Running (s : State) : Prop := s.params.wf = true ∧ s.rstIn = false ∧ s.bench = []

/-- `s` once its next response `r` to the request `w` has been taken and both have been observed. -/
def answeredBy (s : State) (w : BitVec 64) (r : Response) (rest : List Response) : State :=
  { s with responses := rest, trace := s.trace ++ [.request w r] }

/-- `s` after the request `w` got FAULT (60_exceptions.md R233): the three fault registers and `st`, and nothing else. -/
def faultedBy (s : State) (w : BitVec 64) (rest : List Response) (code : Code) (index : BitVec 10) : State :=
  { answeredBy s w .fault rest with faultCode := code, faultState := s.st, faultIdx := index, st := 0xD }

/-- `s` after one line has gone out. -/
def emitted (s : State) (bs : List Byte) : State := { s with trace := s.trace ++ [.line bs] }

/-- The word of `MemRead(RXMEM, 0, n)` (30_encoding.md R98). -/
def rxDataWordOf (n : Nat) : BitVec 64 := BitVec.ofNat 64 (0x4000000000000000 + n * 0x100000000)

/-- The word of `MemRead(ACC, i, 7)` (R98). -/
def accWordOf (i : Nat) : BitVec 64 := BitVec.ofNat 64 (0x5000000000000000 + i * 0x100000000)

/-- The word of `RegWriteClear(RID_STATUS, mask)` (R98). -/
def clearWordOf (mask : Word32) : BitVec 64 := BitVec.ofNat 64 (0x3000000000000000 + mask.toNat)

/-- The integer of a raw 18-bit field given as a number (40_sample_decoder.md R122, form (b)). -/
def fieldValue (raw : Nat) : Int := if raw < 131072 then (raw : Int) else (raw : Int) - 262144

/-- The real part of a record by arithmetic on its bytes (30_encoding.md R82). -/
def reOf (r : Record) : Int := fieldValue (r.b1.toNat + 256 * r.b2.toNat + 65536 * (r.b3.toNat % 4))

/-- The imaginary part of a record by arithmetic on its bytes (R82). -/
def imOf (r : Record) : Int := fieldValue (r.b4.toNat + 256 * r.b5.toNat + 65536 * (r.b6.toNat % 4))

/-- The OK response that carries a record (R99). -/
def recordResponse (r : Record) : Response := .bytes [r.b0, r.b1, r.b2, r.b3, r.b4, r.b5, r.b6]

/-- The substituted first-path index of a raw one, as a number (42_diagnostics_framer.md R170). -/
def fpOf (raw : BitVec 16) : Nat := if raw.toNat < 1024 then raw.toNat else 0

/-- The window's bounds as numbers (41_cir_window_extractor.md R140). -/
def startOf (fp : Nat) : Nat := fp - 10
def stopOf (fp : Nat) : Nat := min 1023 (fp + 50)

/-- The words the block issues (R98). -/
def Issued (p : Config.Params) (w : BitVec 64) : Prop :=
  w = 0x1000000000000000 ∨ w = 0x2000000000000000 ∨ w = 0x2100000000000000 ∨ w = 0x6000000000000000
  ∨ w = clearWordOf p.goodMask ∨ w = clearWordOf p.errMask
  ∨ (∃ n, 1 ≤ n ∧ n ≤ 125 ∧ w = rxDataWordOf n) ∨ (∃ i, i ≤ 1023 ∧ w = accWordOf i)

/-- Every request observed so far is one the block issues. -/
def OnlyIssued (s : State) : Prop := ∀ w r, Event.request w r ∈ s.trace → Issued s.params w

/-- The rows of the fault table (60_exceptions.md R231): a code with the state that raises it. F_BAD_STATE is left out,
since no run reaches it. -/
def FaultRow (code state : Code) : Prop :=
  (code = 0x1 ∧ state = 0x1) ∨ (code = 0x2 ∧ state = 0x2) ∨ (code = 0x3 ∧ state = 0x3) ∨ (code = 0x4 ∧ state = 0x4)
  ∨ (code = 0x5 ∧ state = 0x5) ∨ (code = 0x6 ∧ state = 0x8) ∨ (code = 0x7 ∧ state = 0xB) ∨ (code = 0x8 ∧ state = 0xC)

/-- The state code lies between two codes. -/
def Between (s : State) (lo hi : Nat) : Prop := lo ≤ s.st.toNat ∧ s.st.toNat ≤ hi

/-- What holds at every step boundary of a run of the block. -/
structure Inv (s : State) : Prop where
  /-- R9, R52. -/
  params : s.params.wf = true
  /-- No test bench (log 7). -/
  bench : s.bench = []
  /-- The buffer's canonical form (10_state.md R27). -/
  memory : Memory.wf s.buf
  /-- Reserved codes are unreachable (R22, R102). -/
  code : s.st.toNat ≤ 13
  /-- No fault is recorded outside FAULTED (60_exceptions.md R236). -/
  clean : s.st ≠ 0xD → s.faultCode = 0 ∧ s.faultState = 0 ∧ s.faultIdx = 0
  /-- In FAULTED one of the rows of R231 is recorded, with an index only for F_ACC_READ. -/
  faulted : s.st = 0xD → FaultRow s.faultCode s.faultState ∧ (s.faultCode ≠ 0x6 → s.faultIdx = 0)
  /-- Once S_ARM_CLEAR has run, the bytes past the payload are 0x00 (R27; 43_receive_state_machine.md R197). -/
  padding : s.st ≠ 0 → ∀ k, s.payLen.toNat ≤ k → k < 127 → Memory.read s.buf k = some 0
  /-- Every byte of the payload has a value (R27). -/
  payload : s.st ≠ 0 → ∀ k, k < s.payLen.toNat → Memory.read s.buf k ≠ none
  /-- R26. -/
  payMax : s.st ≠ 0 → s.payLen.toNat ≤ 125
  /-- No payload before the copy and none on an error (R201). -/
  noPayload : (Between s 1 4 ∨ s.st = 0xC) → s.payLen = 0
  /-- A copy is only taken on a length that fits (R196). -/
  copying : s.st = 0x4 → 2 < s.frameLen.toNat ∧ s.frameLen.toNat ≤ 127
  /-- The payload's length follows from the frame's (R196, R197, R204). -/
  copied : Between s 5 11 →
    s.payLen.toNat = if 2 < s.frameLen.toNat ∧ s.frameLen.toNat ≤ 127 then s.frameLen.toNat - 2 else 0
  /-- The frame length lies in its field (R25). -/
  field : Between s 4 11 → s.frameLen &&& s.params.rxlenMask = s.frameLen
  /-- FRAME_GOOD on a status with a frame-good bit (R193, R194). -/
  isGood : Between s 3 11 → s.status &&& s.params.goodMask ≠ 0
  /-- FRAME_ERROR on a status with an error bit and no frame-good bit (R193, R194). -/
  isError : s.st = 0xC → s.status &&& s.params.goodMask = 0 ∧ s.status &&& s.params.errMask ≠ 0
  /-- The window of the snapshot's index (R140, R170). -/
  window : Between s 6 11 → s.fp.toNat = fpOf s.fpRaw ∧ s.winStart.toNat = startOf s.fp.toNat
    ∧ s.winEnd.toNat = stopOf s.fp.toNat
  /-- The index is in the window while it is visited, and one past it after (R31). -/
  visiting : Between s 8 9 → s.winStart.toNat ≤ s.idx.toNat ∧ s.idx.toNat ≤ s.winEnd.toNat
  visited : Between s 10 11 → s.idx.toNat = s.winEnd.toNat + 1
  /-- The sample about to be printed (R32, R33). -/
  sample : s.st = 0x9 → ∃ a b : Int, -131072 ≤ a ∧ a ≤ 131071 ∧ -131072 ≤ b ∧ b ≤ 131071
    ∧ s.re.toInt = a ∧ s.im.toInt = b ∧ s.magMilli.toNat = magOf a b

/-- The successor graph (10_state.md R22). -/
def Successor (a b : Code) : Prop :=
  (a = 0x0 ∧ b = 0x1) ∨ (a = 0x1 ∧ b = 0x2)
  ∨ (a = 0x2 ∧ (b = 0x2 ∨ b = 0x3 ∨ b = 0xC)) ∨ (a = 0x3 ∧ (b = 0x4 ∨ b = 0x5)) ∨ (a = 0x4 ∧ b = 0x5)
  ∨ (a = 0x5 ∧ b = 0x6) ∨ (a = 0x6 ∧ b = 0x7) ∨ (a = 0x7 ∧ (b = 0x8 ∨ b = 0xA)) ∨ (a = 0x8 ∧ b = 0x9)
  ∨ (a = 0x9 ∧ (b = 0x8 ∨ b = 0xA)) ∨ (a = 0xA ∧ b = 0xB) ∨ (a = 0xB ∧ b = 0x0) ∨ (a = 0xC ∧ b = 0x0)

/-- The codes whose operation issues a request (30_encoding.md R96). -/
def Requesting (a : Code) : Prop :=
  a = 0x1 ∨ a = 0x2 ∨ a = 0x3 ∨ a = 0x4 ∨ a = 0x5 ∨ a = 0x8 ∨ a = 0xB ∨ a = 0xC

/-- The codes whose operation emits a line (42_diagnostics_framer.md R171 to R173; R149). -/
def Emitting (a : Code) : Prop := a = 0x6 ∨ a = 0x7 ∨ a = 0x9 ∨ a = 0xA

/-- The operation waits: for a response (20_memory.md R60) or for the sink (R68). -/
def Waiting (s : State) : Prop :=
  (Requesting s.st ∧ s.responses = []) ∨ (Emitting s.st ∧ s.sinkHold = true)

/-- The telemetry lines of an observation. -/
def linesOf : List Event → List (List Byte)
  | [] => []
  | .line bs :: es => bs :: linesOf es
  | .request _ _ :: es => linesOf es
  | .sample _ _ :: es => linesOf es

/-- The CIR lines of consecutive samples from an index on (41_cir_window_extractor.md R150). -/
def cirLinesFrom (i : Nat) : List (Int × Int) → List (List Byte)
  | [] => []
  | (a, b) :: ps => cirLine i a b (magOf a b) :: cirLinesFrom (i + 1) ps

/-- Samples as the decoder gives them (40_sample_decoder.md R123). -/
def InRange (ps : List (Int × Int)) : Prop :=
  ∀ p ∈ ps, -131072 ≤ p.1 ∧ p.1 ≤ 131071 ∧ -131072 ≤ p.2 ∧ p.2 ≤ 131071

/-- The lines of a group up to and without its end marker (42_diagnostics_framer.md R174). -/
def openGroup (raw : BitVec 16) (ps : List (Int × Int)) : List (List Byte) :=
  metaLine (fpOf raw) (startOf (fpOf raw)) (stopOf (fpOf raw)) :: beginLine :: cirLinesFrom (startOf (fpOf raw)) ps

/-- A sequence of complete groups: each has one CIR line for every index of its window (R174, R176). -/
inductive Groups : List (List Byte) → Prop where
  | none : Groups []
  | more (ls : List (List Byte)) (raw : BitVec 16) (ps : List (Int × Int)) : Groups ls → InRange ps →
      ps.length = stopOf (fpOf raw) - startOf (fpOf raw) + 1 → Groups (ls ++ openGroup raw ps ++ [endLine])

/-- The telemetry so far is complete groups, and after them the part of a group that the state code says is out. In
FAULTED there may be a begun group that nothing ends (R174, R175; 60_exceptions.md R233). -/
def Framed (s : State) : Prop :=
  ∃ done part, linesOf s.trace = done ++ part ∧ Groups done ∧
    (Between s 0 6 ∨ Between s 11 12 → part = [])
    ∧ (s.st = 0x7 → part = [metaLine s.fp.toNat s.winStart.toNat s.winEnd.toNat])
    ∧ (Between s 8 9 → ∃ ps, InRange ps ∧ s.winStart.toNat + ps.length = s.idx.toNat ∧ part = openGroup s.fpRaw ps)
    ∧ (s.st = 0xA → ∃ ps, InRange ps ∧ s.winStart.toNat + ps.length = s.winEnd.toNat + 1 ∧ part = openGroup s.fpRaw ps)
    ∧ (s.st = 0xD → part = [] ∨ ∃ ps, InRange ps ∧ s.winStart.toNat + ps.length = s.idx.toNat
        ∧ part = openGroup s.fpRaw ps)

/-- The bytes of the telemetry protocol (30_encoding.md R93): the letters `A B C D E F G I M N P R S T`, `_`, `,`, `=`, `.`,
`-`, the digits, carriage return and line feed. -/
def InCharacterSet (b : Byte) : Prop :=
  b ∈ ([0x41, 0x42, 0x43, 0x44, 0x45, 0x46, 0x47, 0x49, 0x4D, 0x4E, 0x50, 0x52, 0x53, 0x54, 0x5F, 0x2C, 0x3D, 0x2E, 0x2D,
    0x30, 0x31, 0x32, 0x33, 0x34, 0x35, 0x36, 0x37, 0x38, 0x39, 0x0D, 0x0A] : List Byte)

/-- The observation of reading and printing consecutive samples from an index on: one READ_ACC before each CIR line
(43_receive_state_machine.md R206). -/
def sampleEvents (i : Nat) : List Record → List Event
  | [] => []
  | r :: rs =>
    .request (accWordOf i) (recordResponse r) :: .line (cirLine i (reOf r) (imOf r) (magOf (reOf r) (imOf r)))
      :: sampleEvents (i + 1) rs

/-- The observation of one whole group (R174). -/
def groupEvents (fp : Nat) (rs : List Record) : List Event :=
  .line (metaLine fp (startOf fp) (stopOf fp)) :: .line beginLine :: (sampleEvents (startOf fp) rs ++ [.line endLine])

/-- The observation of polling: the status words in order (43_receive_state_machine.md R193). -/
def pollEvents (ws : List Word32) : List Event := ws.map fun w => .request 0x2000000000000000 (.word w)

/-- A state without the three registers that no operation reads (10_state.md R26 to R28). -/
def eraseUnread (s : State) : State := { s with buf := [], payLen := 0, fpRaw := 0 }

/-- Two answers that agree but for those registers. -/
def SameButUnread : Result → Result → Prop
  | .next t, .next t' => eraseUnread t = eraseUnread t'
  | .fault f, .fault f' => f = f'
  | .refused r, .refused r' => r = r'
  | _, _ => False

end Sys2Proof.Safety
end

