-- ==== Sys2Proof/Certificates/Slice0/Obligations.lean ====
section
/-! DEFINITION. The statements for the provers, from the numbered rules of spec/. -/

open Sys2Proof Sys2Proof.Machine Sys2Proof.Safety

/-! ## Reset, and what a step runs -/

/-- 10_state.md R43, the values it gives, whatever values (log 1) the registers it leaves unspecified hold and whatever
the parameters are; and R37's output. -/
def Obligations.ResetLeavesTheGivenValues : Prop :=
  ∀ (u : Unspecified) (p : Config.Params),
    (State.resetWith u p).st = 0x0 ∧ (State.resetWith u p).faultCode = 0 ∧ (State.resetWith u p).faultState = 0
    ∧ (State.resetWith u p).faultIdx = 0 ∧ (State.resetWith u p).faultO = false
    ∧ (State.resetWith u p).telemetry = [] ∧ (∃ v q, State.reset = State.resetWith v q)

/-- 70_reset_and_hazards.md R260: reset comes before every other event, in every state; the registers take R43's values,
the unspecified ones those of the draw (log 6), and the inputs and parameters stay. R260 gives these values for the release;
that a step under reset already holds them is the model's choice (log 24). -/
def Obligations.ResetTakesPrecedence : Prop :=
  ∀ s : State, s.params.wf = true → s.rstIn = true →
    step s = .next { State.resetWith s.rstDraw s.params with
      responses := s.responses, sinkHold := s.sinkHold, rstIn := true, freeCount := s.freeCount }

/-- 70_reset_and_hazards.md R260, R261: whenever reset is released, however long it was asserted and whatever the inputs
did meanwhile, the block holds R43's values, the unspecified ones those of the draw (log 6). So it does if it is asserted
in any state, at any point of a run, and released after any number of steps, none included; and the first step after the
release is S_ARM_CLEAR. Releasing what is not asserted changes nothing. -/
def Obligations.ReleaseLeavesTheResetValues : Prop :=
  (∀ s : State, s.rstIn = true → s.setReset false =
    { State.resetWith s.rstDraw s.params with
      responses := s.responses, sinkHold := s.sinkHold, freeCount := s.freeCount })
  ∧ (∀ (k : Nat) (s : State), s.params.wf = true →
    ∃ t, Host.Core.run core k (s.setReset true) = .next t
      ∧ t.setReset false = { State.resetWith s.rstDraw s.params with
        responses := s.responses, sinkHold := s.sinkHold, freeCount := s.freeCount }
      ∧ step (t.setReset false) = exec .sArmClear (t.setReset false))
  ∧ ∀ s : State, s.rstIn = false → s.setReset false = s

/-- 30_encoding.md R100, 10_state.md R21: the step of the block itself is the operation `st` selects, for each of the
sixteen codes. -/
def Obligations.StepRunsTheSelectedOperation : Prop :=
  ∀ s : State, Running s →
    (s.st = 0x0 → step s = exec .sArmClear s) ∧ (s.st = 0x1 → step s = exec .sArmReq s)
    ∧ (s.st = 0x2 → step s = exec .sPoll s) ∧ (s.st = 0x3 → step s = exec .sGoodLen s)
    ∧ (s.st = 0x4 → step s = exec .sGoodCopy s) ∧ (s.st = 0x5 → step s = exec .sGoodDiag s)
    ∧ (s.st = 0x6 → step s = exec .sRepMeta s) ∧ (s.st = 0x7 → step s = exec .sRepBegin s)
    ∧ (s.st = 0x8 → step s = exec .sExtRead s) ∧ (s.st = 0x9 → step s = exec .sExtEmit s)
    ∧ (s.st = 0xA → step s = exec .sRepEnd s) ∧ (s.st = 0xB → step s = exec .sGoodClr s)
    ∧ (s.st = 0xC → step s = exec .sErrClr s) ∧ (s.st = 0xD → step s = exec .sFault s)
    ∧ (s.st = 0xE → step s = exec (.sReserved 0) s) ∧ (s.st = 0xF → step s = exec (.sReserved 1) s)

/-- The model's own (log 7): outside FAULTED, a word that a test bench presents at the boundary runs as the row it decodes
to, whatever `st` is. A state code is no such word. -/
def Obligations.StepRunsThePresentedWord : Prop :=
  ∀ (s : State) (i : Instr), s.params.wf = true → s.rstIn = false → s.st ≠ 0xD → 1 < s.bench.length →
    decode s.bench = .ok i → step s = exec i s

/-- The model's placing of a table word (log 7): the next step runs exactly the row the decoder reads from it. -/
def Obligations.PlacedWordRunsNext : Prop :=
  ∀ (s : State) (nbits w : Nat) (i : Instr), s.params.wf = true → decodeTableWord nbits w = some i →
    step (s.withFetchWord nbits w) = exec i (s.withFetchWord nbits w)

/-! ## Encodings -/

/-- Words written out from 10_state.md R21 and 30_encoding.md R98, R85, R87, R91 and R81; the sample line
`CIR,100,3,4,5.000` and the metadata line `CIR_META,FP=100,START=90,END=150` letter by letter. -/
def Obligations.WordsOfTheTablesDecode : Prop :=
  decode [0x08] = .ok .sExtRead ∧ decode [0x0D] = .ok .sFault ∧ decode [0x0F] = .ok (.sReserved 1)
  ∧ decode (leBytes 8 0x1000000000000000) = .ok .armRx
  ∧ decode (leBytes 8 0x2100000000000000) = .ok .readReg32Rxinfo
  ∧ decode (leBytes 8 0x3000000000004000) = .ok (.writeClear32 0x4000)
  ∧ decode (leBytes 8 0x4000007D00000000) = .ok (.readRxData 125)
  ∧ decode (leBytes 8 0x500003F500000000) = .ok (.readAcc 1013)
  ∧ decode [0x46, 0x52, 0x41, 0x4D, 0x45, 0x5F, 0x45, 0x4E, 0x44, 0x0D, 0x0A] = .ok .tlmFrameEnd
  ∧ decode [0x43, 0x49, 0x52, 0x2C, 0x31, 0x30, 0x30, 0x2C, 0x33, 0x2C, 0x34, 0x2C, 0x35, 0x2E, 0x30, 0x30, 0x30, 0x0D,
    0x0A] = .ok (.tlmCir 100 3 4 5000)
  ∧ decode [0x43, 0x49, 0x52, 0x5F, 0x4D, 0x45, 0x54, 0x41, 0x2C, 0x46, 0x50, 0x3D, 0x31, 0x30, 0x30, 0x2C, 0x53, 0x54,
    0x41, 0x52, 0x54, 0x3D, 0x39, 0x30, 0x2C, 0x45, 0x4E, 0x44, 0x3D, 0x31, 0x35, 0x30, 0x0D, 0x0A] =
    .ok (.tlmCirMeta 100 90 150)
  ∧ decode [0x00, 0x01, 0x00, 0x02, 0x00, 0x00, 0x00] = .ok (.accRecord 0x00000002000100)

/-- Decoding an encoded well-formed row gives it back, with every operand at every value (30_encoding.md R80 to R103). -/
def Obligations.DecodeOfEncode : Prop := ∀ i : Instr, i.wf = true → decode (encode i) = .ok i

/-- What the decoder accepts is a well-formed row, and is exactly that row's encoding. The encodings are those of
30_encoding.md R84 to R92 and R95 to R98; that nothing else decodes (a line spelled otherwise, a nonzero MODE or OFFSET,
WRITE_CLEAR32 with the identifier 1) is the model's choice (log 19): R101 only lets a model refuse what it reserves, and
the spec decodes no line. -/
def Obligations.EncodeOfDecode : Prop :=
  ∀ (bs : List Byte) (i : Instr), decode bs = .ok i → i.wf = true ∧ encode i = bs

/-- 30_encoding.md R101, R97: a reserved opcode, a reserved identifier, a nonzero reserved field, an identifier on an
opcode that takes none, or a LEN of 0 is no request word. The fifth clause also covers WRITE_CLEAR32 with the identifier 1,
an opcode that does take one (00_scope.md R14): that it is refused is the model's choice (log 19), since R98 has no such
word. -/
def Obligations.ReservedRequestsAreRefused : Prop :=
  ∀ w : BitVec 64,
    (w.extractLsb' 60 4 = 0 ∨ 7 ≤ (w.extractLsb' 60 4).toNat ∨ w.extractLsb' 48 8 ≠ 0
      ∨ 2 ≤ (w.extractLsb' 56 4).toNat ∨ (w.extractLsb' 56 4 ≠ 0 ∧ w.extractLsb' 60 4 ≠ 2)
      ∨ (w.extractLsb' 60 4 = 4 ∧ w.extractLsb' 32 16 = 0)) →
    ∃ e, decode (leBytes 8 w.toNat) = .error e

/-! ## The operations -/

/-- 43_receive_state_machine.md R191: every buffer byte becomes 0x00 and `pay_len` 0; nothing else changes. -/
def Obligations.ArmClearEffect : Prop :=
  ∀ s : State, ∃ t, exec .sArmClear s = .next t ∧ t = { s with buf := t.buf, payLen := 0, st := 0x1 }
    ∧ (∀ k, k < 127 → Memory.read t.buf k = some 0) ∧ ∀ k, 127 ≤ k → Memory.read t.buf k = none

/-- R192: OK goes to S_POLL; FAULT raises F_ARM. Nothing else changes. -/
def Obligations.ArmReqEffect : Prop :=
  ∀ (s : State) (rest : List Response),
    (s.responses = .ack :: rest →
      exec .sArmReq s = .next { answeredBy s 0x1000000000000000 .ack rest with st := 0x2 })
    ∧ (s.responses = .fault :: rest → exec .sArmReq s = .next (faultedBy s 0x1000000000000000 rest 0x1 0))

/-- R193, R194: the status is stored and classified, frame-good first; FAULT raises F_STATUS_READ. -/
def Obligations.PollEffect : Prop :=
  ∀ (s : State) (rest : List Response),
    (∀ w, s.responses = .word w :: rest →
      exec .sPoll s = .next { answeredBy s 0x2000000000000000 (.word w) rest with
        status := w
        st := if w &&& s.params.goodMask ≠ 0 then 0x3 else if w &&& s.params.errMask ≠ 0 then 0xC else 0x2 })
    ∧ (s.responses = .fault :: rest → exec .sPoll s = .next (faultedBy s 0x2000000000000000 rest 0x2 0))

/-- R195, R196, R204: the length field is stored, and the copy is taken exactly on lengths 3 to 127; FAULT raises
F_RXINFO_READ. -/
def Obligations.GoodLenEffect : Prop :=
  ∀ (s : State) (rest : List Response),
    (∀ w, s.responses = .word w :: rest →
      exec .sGoodLen s = .next { answeredBy s 0x2100000000000000 (.word w) rest with
        frameLen := w &&& s.params.rxlenMask
        st := if 2 < (w &&& s.params.rxlenMask).toNat ∧ (w &&& s.params.rxlenMask).toNat ≤ 127 then 0x4 else 0x5 })
    ∧ (s.responses = .fault :: rest → exec .sGoodLen s = .next (faultedBy s 0x2100000000000000 rest 0x3 0))

/-- R197: the first `n = frame_len - 2` buffer bytes become the response's, every other address reads as before, and
`pay_len` is `n`; FAULT raises F_PAYLOAD_READ and writes no byte. R196 gives a run `n ≤ 125`; here every `n` that the buffer
holds is covered, and FAULT for every `n` that a request carries. -/
def Obligations.GoodCopyEffect : Prop :=
  ∀ (s : State) (rest : List Response) (n : Nat),
    s.frameLen.toNat = n + 2 → 1 ≤ n → n < 65536 → n ≤ s.params.rxmemSize →
    (∀ bs, s.responses = .bytes bs :: rest → bs.length = n → n ≤ 127 →
      ∃ t, exec .sGoodCopy s = .next t
        ∧ t = { answeredBy s (rxDataWordOf n) (.bytes bs) rest with
          buf := t.buf, payLen := BitVec.ofNat 8 n, st := 0x5 }
        ∧ (∀ k, k < n → Memory.read t.buf k = bs[k]?) ∧ ∀ k, n ≤ k → Memory.read t.buf k = Memory.read s.buf k)
    ∧ (s.responses = .fault :: rest → exec .sGoodCopy s = .next (faultedBy s (rxDataWordOf n) rest 0x4 0))

/-- The model's choice (log 12): where a payload length stops S_GOOD_COPY, on lengths that R196 keeps a run from, and the
READ_RX_DATA row. No LEN carries 0 or less, or more than 65535 (30_encoding.md R95, R101), no buffer byte lies at 127 or
more (10_state.md R27), and no receive memory beyond its size (20_memory.md R52). -/
def Obligations.GoodCopyStops : Prop :=
  ∀ s : State,
    (s.frameLen.toNat ≤ 2 ∨ 65538 ≤ s.frameLen.toNat → exec .sGoodCopy s = .refused .noRequestWord)
    ∧ (∀ n, s.frameLen.toNat = n + 2 → 1 ≤ n → n < 65536 → s.params.rxmemSize < n →
      exec .sGoodCopy s = .fault .noSuchRxByte)
    ∧ (∀ n bs rest, s.frameLen.toNat = n + 2 → 127 < n → n < 65536 → n ≤ s.params.rxmemSize →
      s.responses = .bytes bs :: rest → bs.length = n → exec .sGoodCopy s = .fault .noSuchBufferByte)
    ∧ exec (.readRxData 0) s = .refused .noRequestWord
    ∧ ∀ len : BitVec 16, 1 ≤ len.toNat → s.params.rxmemSize < len.toNat →
      exec (.readRxData len) s = .fault .noSuchRxByte

/-- R198 with 42_diagnostics_framer.md R170 and 41_cir_window_extractor.md R140: the raw index, its substitute, and the
clamped window; FAULT raises F_DIAG_READ. -/
def Obligations.GoodDiagEffect : Prop :=
  ∀ (s : State) (rest : List Response),
    (∀ (raw : BitVec 16) (other : List Byte) (f : Nat), s.responses = .diag raw other :: rest →
      f = (if raw.toNat < 1024 then raw.toNat else 0) →
      exec .sGoodDiag s = .next { answeredBy s 0x6000000000000000 (.diag raw other) rest with
        fpRaw := raw, fp := BitVec.ofNat 10 f, winStart := BitVec.ofNat 10 (f - 10),
        winEnd := BitVec.ofNat 10 (min 1023 (f + 50)), st := 0x6 })
    ∧ (s.responses = .fault :: rest → exec .sGoodDiag s = .next (faultedBy s 0x6000000000000000 rest 0x5 0))

/-- R199: write-clear of `GOOD_MASK`, then S_ARM_CLEAR; FAULT raises F_CLEAR_GOOD. -/
def Obligations.GoodClrEffect : Prop :=
  ∀ (s : State) (rest : List Response),
    (s.responses = .ack :: rest →
      exec .sGoodClr s = .next { answeredBy s (clearWordOf s.params.goodMask) .ack rest with st := 0x0 })
    ∧ (s.responses = .fault :: rest →
      exec .sGoodClr s = .next (faultedBy s (clearWordOf s.params.goodMask) rest 0x7 0))

/-- R200: write-clear of `ERR_MASK`, then S_ARM_CLEAR; FAULT raises F_CLEAR_ERR. -/
def Obligations.ErrClrEffect : Prop :=
  ∀ (s : State) (rest : List Response),
    (s.responses = .ack :: rest →
      exec .sErrClr s = .next { answeredBy s (clearWordOf s.params.errMask) .ack rest with st := 0x0 })
    ∧ (s.responses = .fault :: rest →
      exec .sErrClr s = .next (faultedBy s (clearWordOf s.params.errMask) rest 0x8 0))

/-- 42_diagnostics_framer.md R171: the metadata line goes out. -/
def Obligations.RepMetaEffect : Prop :=
  ∀ s : State, s.sinkHold = false →
    exec .sRepMeta s = .next { emitted s (metaLine s.fp.toNat s.winStart.toNat s.winEnd.toNat) with st := 0x7 }

/-- R172, with the empty window of 41_cir_window_extractor.md R144: no READ_ACC and no CIR line, straight to S_REP_END. -/
def Obligations.RepBeginEffect : Prop :=
  ∀ s : State, s.sinkHold = false → exec .sRepBegin s =
    .next { emitted s [0x46, 0x52, 0x41, 0x4D, 0x45, 0x5F, 0x42, 0x45, 0x47, 0x49, 0x4E, 0x0D, 0x0A] with
      idx := BitVec.ofNat 11 s.winStart.toNat, st := if s.winStart.toNat ≤ s.winEnd.toNat then 0x8 else 0xA }

/-- R173. -/
def Obligations.RepEndEffect : Prop :=
  ∀ s : State, s.sinkHold = false → exec .sRepEnd s =
    .next { emitted s [0x46, 0x52, 0x41, 0x4D, 0x45, 0x5F, 0x45, 0x4E, 0x44, 0x0D, 0x0A] with st := 0xB }

/-- 41_cir_window_extractor.md R148: the record at `idx[9:0]` is read, decoded by arithmetic on its bytes, and measured;
FAULT raises F_ACC_READ with the index recorded. -/
def Obligations.ExtReadEffect : Prop :=
  ∀ (s : State) (rest : List Response),
    (∀ r : Record, s.responses = recordResponse r :: rest →
      exec .sExtRead s = .next { answeredBy s (accWordOf (s.idx.toNat % 1024)) (recordResponse r) rest with
        re := BitVec.ofInt 32 (reOf r), im := BitVec.ofInt 32 (imOf r),
        magMilli := BitVec.ofNat 28 (magOf (reOf r) (imOf r)), st := 0x9 })
    ∧ (s.responses = .fault :: rest → exec .sExtRead s =
      .next (faultedBy s (accWordOf (s.idx.toNat % 1024)) rest 0x6 (BitVec.ofNat 10 (s.idx.toNat % 1024))))

/-- R149: one CIR line, the next index, and the test on the new index, wherever `idx + 1` fits in the 11 bits of `idx`
(10_state.md R31: it never exceeds 1024). -/
def Obligations.ExtEmitEffect : Prop :=
  ∀ s : State, s.sinkHold = false → s.idx.toNat < 2047 → exec .sExtEmit s =
    .next { emitted s (cirLine s.idx.toNat s.re.toInt s.im.toInt s.magMilli.toNat) with
      idx := BitVec.ofNat 11 (s.idx.toNat + 1), st := if s.idx.toNat + 1 ≤ s.winEnd.toNat then 0x8 else 0xA }

/-- The model's choice (log 11): at 2047, which no run reaches, S_EXT_EMIT still runs, the new index is a free value, and
everything else is as R149 says. -/
def Obligations.ExtEmitAtTheTop : Prop :=
  ∀ s : State, s.sinkHold = false → s.idx.toNat = 2047 → ∃ t, exec .sExtEmit s = .next t
    ∧ t = { emitted s (cirLine 2047 s.re.toInt s.im.toInt s.magMilli.toNat) with
      idx := t.idx, freeCount := t.freeCount, st := 0xA }

/-- 60_exceptions.md R234: in FAULTED nothing happens until reset, whatever stands at the inputs, and `fault_o` is 1 there
and only there (10_state.md R37). The hold is a step that changes nothing (log 15). -/
def Obligations.FaultedHolds : Prop :=
  (∀ s : State, exec .sFault s = .next s)
  ∧ (∀ s : State, s.params.wf = true → s.rstIn = false → s.st = 0xD → step s = .next s)
  ∧ ∀ s : State, s.faultO = true ↔ s.st = 0xD

/-- R235: a reserved code raises F_BAD_STATE, always. -/
def Obligations.ReservedCodesFault : Prop :=
  ∀ (low : BitVec 1) (s : State), exec (.sReserved low) s =
    .next { s with faultCode := 0x9, faultState := s.st, faultIdx := 0, st := 0xD }

/-! ## Requests, lines and the record on their own -/

/-- 00_scope.md R14, 20_memory.md R60, 30_encoding.md R98, R99: each request row is one transaction with its word and its
data, after which the presented word is gone (log 7). A LEN up to the receive memory's size is one (log 12). That the row
discards the data and writes no register, and that WRITE_CLEAR32 may advance the counter of free values, is the model's
choice (log 8). -/
def Obligations.RequestRowsTransact : Prop :=
  ∀ (s : State) (rest : List Response),
    (s.responses = .ack :: rest →
      exec .armRx s = .next { answeredBy s 0x1000000000000000 .ack rest with bench := [] }
      ∧ ∀ mask, ∃ t, exec (.writeClear32 mask) s = .next t
        ∧ t = { answeredBy s (clearWordOf mask) .ack rest with bench := [], freeCount := t.freeCount })
    ∧ (∀ w, s.responses = .word w :: rest →
      exec .readReg32Status s = .next { answeredBy s 0x2000000000000000 (.word w) rest with bench := [] }
      ∧ exec .readReg32Rxinfo s = .next { answeredBy s 0x2100000000000000 (.word w) rest with bench := [] })
    ∧ (∀ (len : BitVec 16) bs, s.responses = .bytes bs :: rest → bs.length = len.toNat → 1 ≤ len.toNat →
      len.toNat ≤ s.params.rxmemSize →
      exec (.readRxData len) s = .next { answeredBy s (rxDataWordOf len.toNat) (.bytes bs) rest with bench := [] })
    ∧ (∀ (index : BitVec 10) r, s.responses = recordResponse r :: rest →
      exec (.readAcc index) s = .next { answeredBy s (accWordOf index.toNat) (recordResponse r) rest with bench := [] })
    ∧ (∀ f other, s.responses = .diag f other :: rest →
      exec .readDiag s = .next { answeredBy s 0x6000000000000000 (.diag f other) rest with bench := [] })

/-- 60_exceptions.md R231, R233, D18: FAULT on a request row raises the code of that request, and the presented word is
gone (log 7). That READ_ACC records `idx[9:0]` is the model's inference (log 20), and that a mask that is neither parameter
records one of the two clear codes, left free, its choice (log 8). -/
def Obligations.RequestRowsFault : Prop :=
  ∀ (s : State) (rest : List Response), s.responses = .fault :: rest →
    exec .armRx s = .next { faultedBy s 0x1000000000000000 rest 0x1 0 with bench := [] }
    ∧ exec .readReg32Status s = .next { faultedBy s 0x2000000000000000 rest 0x2 0 with bench := [] }
    ∧ exec .readReg32Rxinfo s = .next { faultedBy s 0x2100000000000000 rest 0x3 0 with bench := [] }
    ∧ (∀ len : BitVec 16, 1 ≤ len.toNat → len.toNat ≤ s.params.rxmemSize →
      exec (.readRxData len) s = .next { faultedBy s (rxDataWordOf len.toNat) rest 0x4 0 with bench := [] })
    ∧ exec .readDiag s = .next { faultedBy s 0x6000000000000000 rest 0x5 0 with bench := [] }
    ∧ (∀ index : BitVec 10, exec (.readAcc index) s = .next
      { faultedBy s (accWordOf index.toNat) rest 0x6 (BitVec.ofNat 10 (s.idx.toNat % 1024)) with bench := [] })
    ∧ exec (.writeClear32 s.params.goodMask) s =
      .next { faultedBy s (clearWordOf s.params.goodMask) rest 0x7 0 with bench := [] }
    ∧ (s.params.wf = true → exec (.writeClear32 s.params.errMask) s =
      .next { faultedBy s (clearWordOf s.params.errMask) rest 0x8 0 with bench := [] })
    ∧ ∀ mask : Word32, ∃ t, exec (.writeClear32 mask) s = .next t ∧ (t.faultCode = 0x7 ∨ t.faultCode = 0x8)
      ∧ t = { faultedBy s (clearWordOf mask) rest t.faultCode 0 with bench := [], freeCount := t.freeCount }

/-- 00_scope.md R15, 30_encoding.md R85 to R87, R91: each line row appends its bytes, after which the presented line is
gone (logs 7, 10). -/
def Obligations.LineRowsEmit : Prop :=
  ∀ s : State, s.sinkHold = false →
    (∀ fp start stop : BitVec 10, exec (.tlmCirMeta fp start stop) s =
      .next { emitted s (metaLine fp.toNat start.toNat stop.toNat) with bench := [] })
    ∧ exec .tlmFrameBegin s = .next { emitted s beginLine with bench := [] }
    ∧ (∀ (index : BitVec 10) (real imag : BitVec 18) (mag : BitVec 28), exec (.tlmCir index real imag mag) s =
      .next { emitted s (cirLine index.toNat real.toInt imag.toInt mag.toNat) with bench := [] })
    ∧ exec .tlmFrameEnd s = .next { emitted s endLine with bench := [] }

/-- 20_memory.md R68: while the sink holds, every emitting row holds, and nothing changes (log 5: the hold is a step that
leaves the state as it was). -/
def Obligations.HeldSinkHolds : Prop :=
  ∀ s : State, s.sinkHold = true →
    exec .sRepMeta s = .next s ∧ exec .sRepBegin s = .next s ∧ exec .sExtEmit s = .next s ∧ exec .sRepEnd s = .next s
    ∧ (∀ fp start stop : BitVec 10, exec (.tlmCirMeta fp start stop) s = .next s)
    ∧ exec .tlmFrameBegin s = .next s
    ∧ (∀ (index : BitVec 10) (real imag : BitVec 18) (mag : BitVec 28),
      exec (.tlmCir index real imag mag) s = .next s)
    ∧ exec .tlmFrameEnd s = .next s

/-- 40_sample_decoder.md R120, 30_encoding.md R81: the record row puts its pair out and writes no register (log 9). -/
def Obligations.RecordRowDecodes : Prop :=
  ∀ (w : BitVec 56) (s : State),
    exec (.accRecord w) s = .next { s with
      bench := []
      trace := s.trace ++ [.sample (BitVec.ofInt 32 (fieldValue (w.toNat / 256 % 262144)))
        (BitVec.ofInt 32 (fieldValue (w.toNat / 4294967296 % 262144)))] }

/-- 20_memory.md R60: without a response a requesting step holds, and nothing changes (log 4). -/
def Obligations.NoResponseHolds : Prop :=
  ∀ s : State, s.responses = [] →
    exec .sArmReq s = .next s ∧ exec .sPoll s = .next s ∧ exec .sGoodLen s = .next s ∧ exec .sGoodDiag s = .next s
    ∧ exec .sExtRead s = .next s ∧ exec .sGoodClr s = .next s ∧ exec .sErrClr s = .next s
    ∧ exec .armRx s = .next s ∧ exec .readReg32Status s = .next s ∧ exec .readReg32Rxinfo s = .next s
    ∧ exec .readDiag s = .next s ∧ (∀ i, exec (.readAcc i) s = .next s) ∧ (∀ m, exec (.writeClear32 m) s = .next s)
    ∧ (2 < s.frameLen.toNat → s.frameLen.toNat < 65538 → s.frameLen.toNat - 2 ≤ s.params.rxmemSize →
      exec .sGoodCopy s = .next s)
    ∧ (∀ len : BitVec 16, 1 ≤ len.toNat → len.toNat ≤ s.params.rxmemSize → exec (.readRxData len) s = .next s)

/-- 30_encoding.md R99: an OK response whose data is not the data of the request is refused at the port boundary, for every
requesting operation and every request row. R99 says so of data of the wrong length; that data of another kind is refused
alike is the model's inference (log 13). -/
def Obligations.WrongResponsesAreRefused : Prop :=
  ∀ (s : State) (r : Response) (rest : List Response), s.responses = r :: rest → r ≠ .fault →
    (r ≠ .ack → exec .sArmReq s = .refused .badResponse ∧ exec .sGoodClr s = .refused .badResponse
      ∧ exec .sErrClr s = .refused .badResponse ∧ exec .armRx s = .refused .badResponse
      ∧ ∀ mask, exec (.writeClear32 mask) s = .refused .badResponse)
    ∧ ((∀ w, r ≠ .word w) → exec .sPoll s = .refused .badResponse ∧ exec .sGoodLen s = .refused .badResponse
      ∧ exec .readReg32Status s = .refused .badResponse ∧ exec .readReg32Rxinfo s = .refused .badResponse)
    ∧ ((∀ f other, r ≠ .diag f other) →
      exec .sGoodDiag s = .refused .badResponse ∧ exec .readDiag s = .refused .badResponse)
    ∧ ((∀ q, r ≠ recordResponse q) →
      exec .sExtRead s = .refused .badResponse ∧ ∀ index, exec (.readAcc index) s = .refused .badResponse)
    ∧ (∀ n, s.frameLen.toNat = n + 2 → 1 ≤ n → n < 65536 → n ≤ s.params.rxmemSize →
      (∀ bs, r = .bytes bs → bs.length ≠ n) → exec .sGoodCopy s = .refused .badResponse)
    ∧ ∀ len : BitVec 16, 1 ≤ len.toNat → len.toNat ≤ s.params.rxmemSize →
      (∀ bs, r = .bytes bs → bs.length ≠ len.toNat) → exec (.readRxData len) s = .refused .badResponse

/-! ## The pure functions -/

/-- 40_sample_decoder.md R122: the three forms of the sign extension agree on every raw field. -/
def Obligations.SignExtensionForms : Prop :=
  ∀ raw : BitVec 18,
    (raw.getLsbD 17 = true → sext18 raw = (raw.toNat : Int) - 262144 ∧ sext18 raw = (raw.toNat : Int) - 2 ^ 18)
    ∧ (raw.getLsbD 17 = false → sext18 raw = raw.toNat)
    ∧ toS32 (sext18 raw) = (if raw &&& 0x20000 ≠ 0 then raw.setWidth 32 ||| 0xFFFC0000 else raw.setWidth 32)

/-- R123: every component is in [-131072, 131071], and every value of that range is that of exactly one raw field. -/
def Obligations.DecodedRangeIsABijection : Prop :=
  (∀ raw : BitVec 18, -131072 ≤ sext18 raw ∧ sext18 raw ≤ 131071)
  ∧ ∀ v : Int, -131072 ≤ v → v ≤ 131071 → ∃ raw, sext18 raw = v ∧ ∀ raw', sext18 raw' = v → raw' = raw

/-- 30_encoding.md R83, 40_sample_decoder.md R121, R124: a result depends only on its own bytes, and not on the six high
bits of its third. -/
def Obligations.DecodeIgnoresOtherBits : Prop :=
  ∀ r q : Record,
    (r.b1 = q.b1 → r.b2 = q.b2 → r.b3.toNat % 4 = q.b3.toNat % 4 → (decodeSample r).1 = (decodeSample q).1)
    ∧ (r.b4 = q.b4 → r.b5 = q.b5 → r.b6.toNat % 4 = q.b6.toNat % 4 → (decodeSample r).2 = (decodeSample q).2)

/-- 30_encoding.md R105's `enc` is undone by the decoder, for every pair in range. -/
def Obligations.DecodeOfEncodedSample : Prop :=
  ∀ (a b : Int) (v w : Nat), -131072 ≤ a → a ≤ 131071 → -131072 ≤ b → b ≤ 131071 →
    (v : Int) = a % 262144 → (w : Int) = b % 262144 →
    decodeSample ⟨0, BitVec.ofNat 8 v, BitVec.ofNat 8 (v / 256), BitVec.ofNat 8 (v / 65536),
      BitVec.ofNat 8 w, BitVec.ofNat 8 (w / 256), BitVec.ofNat 8 (w / 65536)⟩ = (a, b)

/-- 41_cir_window_extractor.md R141, R142, R143: the clamped bounds, and 11 to 61 samples, 61 exactly away from the
edges. -/
def Obligations.WindowBounds : Prop :=
  ∀ fp : BitVec 10,
    (fp.toNat ≤ 10 → (windowStart fp).toNat = 0) ∧ (10 ≤ fp.toNat → (windowStart fp).toNat = fp.toNat - 10)
    ∧ (fp.toNat ≤ 973 → (windowEnd fp).toNat = fp.toNat + 50) ∧ (973 ≤ fp.toNat → (windowEnd fp).toNat = 1023)
    ∧ (windowStart fp).toNat ≤ fp.toNat ∧ fp.toNat ≤ (windowEnd fp).toNat
    ∧ 11 ≤ (windowEnd fp).toNat - (windowStart fp).toNat + 1 ∧ (windowEnd fp).toNat - (windowStart fp).toNat + 1 ≤ 61
    ∧ ((windowEnd fp).toNat - (windowStart fp).toNat + 1 = 61 ↔ 10 ≤ fp.toNat ∧ fp.toNat ≤ 973)

/-- 00_scope.md R16: `isqrt n` is the largest natural whose square is at most `n`. -/
def Obligations.IsqrtIsTheLargestRoot : Prop :=
  ∀ n : Nat, isqrt n * isqrt n ≤ n ∧ ∀ q, q * q ≤ n → q ≤ isqrt n

/-- 41_cir_window_extractor.md R146, R147: `magOf` is within half a thousandth of the exact magnitude, strictly (no ties),
and on decoded components it is at most 185363800, so it fits in 28 bits. -/
def Obligations.MagnitudeIsNearest : Prop :=
  ∀ a b : Int,
    4 * (1000000 * (a * a + b * b)) < (2 * (magOf a b : Int) + 1) * (2 * (magOf a b : Int) + 1)
    ∧ (0 < magOf a b → (2 * (magOf a b : Int) - 1) * (2 * (magOf a b : Int) - 1) < 4 * (1000000 * (a * a + b * b)))
    ∧ (-131072 ≤ a → a ≤ 131071 → -131072 ≤ b → b ≤ 131071 → magOf a b ≤ 185363800)

/-- 30_encoding.md R88: the digits spell the number, each is `0` to `9`, and a leading zero stands only for 0. -/
def Obligations.UnsignedSpelling : Prop :=
  ∀ n : Nat, (∀ b ∈ udec n, isDigit b = true) ∧ readDigits 0 (udec n) = (n, []) ∧ udec n ≠ []
    ∧ ((udec n).head? = some 0x30 → n = 0 ∧ udec n = [0x30])

/-- R89, R90: the sign, and the point before exactly three digits. R85, R87: the metadata line and the sample line, letter
by letter from their literals (`CIR_META,FP=`, `,START=`, `,END=`; `CIR,` and commas), with their fields in order. -/
def Obligations.SignedAndFractionSpelling : Prop :=
  (∀ v : Int, 0 ≤ v → sdec v = udec v.toNat) ∧ (∀ v : Int, v < 0 → sdec v = 0x2D :: udec (-v).toNat)
  ∧ (∀ m : Nat, ∃ x y z, mdec m = udec (m / 1000) ++ [0x2E, x, y, z] ∧ isDigit x = true ∧ isDigit y = true
    ∧ isDigit z = true ∧ (x.toNat - 0x30) * 100 + (y.toNat - 0x30) * 10 + (z.toNat - 0x30) = m % 1000)
  ∧ (∀ fp start stop : Nat, metaLine fp start stop =
    [0x43, 0x49, 0x52, 0x5F, 0x4D, 0x45, 0x54, 0x41, 0x2C, 0x46, 0x50, 0x3D] ++ udec fp
    ++ [0x2C, 0x53, 0x54, 0x41, 0x52, 0x54, 0x3D] ++ udec start ++ [0x2C, 0x45, 0x4E, 0x44, 0x3D] ++ udec stop
    ++ [0x0D, 0x0A])
  ∧ ∀ (i : Nat) (re im : Int) (m : Nat), cirLine i re im m =
    [0x43, 0x49, 0x52, 0x2C] ++ udec i ++ [0x2C] ++ sdec re ++ [0x2C] ++ sdec im ++ [0x2C] ++ mdec m ++ [0x0D, 0x0A]

/-- R85, R87: a metadata line has 30 to 38 bytes for the block's windows, a sample line 17 to 37 over the ranges of R94. -/
def Obligations.LineLengths : Prop :=
  (∀ raw : BitVec 16, 30 ≤ (metaLine (fpOf raw) (startOf (fpOf raw)) (stopOf (fpOf raw))).length
    ∧ (metaLine (fpOf raw) (startOf (fpOf raw)) (stopOf (fpOf raw))).length ≤ 38)
  ∧ ∀ (i : Nat) (a b : Int) (m : Nat), i ≤ 1023 → -131072 ≤ a → a ≤ 131071 → -131072 ≤ b → b ≤ 131071 →
    m ≤ 185363800 → 17 ≤ (cirLine i a b m).length ∧ (cirLine i a b m).length ≤ 37

/-- From R84, R92 and R93: each line of the four forms ends in CR LF, holds neither byte anywhere else, and uses no byte
outside the character set. -/
def Obligations.LinesAreFramed : Prop :=
  ∀ l : List Byte,
    ((∃ fp start stop, l = metaLine fp start stop) ∨ l = beginLine ∨ (∃ i a b m, l = cirLine i a b m) ∨ l = endLine) →
    ∃ body, l = body ++ [0x0D, 0x0A] ∧ ∀ b ∈ body, isDigit b = true
      ∨ b ∈ ([0x41, 0x42, 0x43, 0x44, 0x45, 0x46, 0x47, 0x49, 0x4D, 0x4E, 0x50, 0x52, 0x53, 0x54, 0x5F, 0x2C, 0x3D, 0x2E,
        0x2D] : List Byte)

/-- 43_receive_state_machine.md R194, 10_state.md R24: exactly one class, frame-good first; bits outside both masks never
change it (R193). -/
def Obligations.StatusClasses : Prop :=
  ∀ (p : Config.Params) (s : Word32),
    (classOf p s = .good ↔ s &&& p.goodMask ≠ 0)
    ∧ (classOf p s = .error ↔ s &&& p.goodMask = 0 ∧ s &&& p.errMask ≠ 0)
    ∧ (classOf p s = .pending ↔ s &&& p.goodMask = 0 ∧ s &&& p.errMask = 0)
    ∧ classOf p (s &&& (p.goodMask ||| p.errMask)) = classOf p s

/-! ## Invariants and whole-machine rules -/

/-- The invariant holds right after reset, for all legal parameters and whatever the unspecified registers hold. -/
def Obligations.InvariantAtReset : Prop :=
  ∀ (u : Unspecified) (p : Config.Params), p.wf = true → Inv (State.resetWith u p)

/-- Every step keeps the invariant: the codes, the fault record, the buffer and its payload, the classes, the window and
the index stay as 10_state.md R22 to R36, R42 and 43_receive_state_machine.md R196, R201, R204 say. -/
def Obligations.StepKeepsTheInvariant : Prop := ∀ s t : State, Inv s → step s = .next t → Inv t

/-- 10_state.md R22: without reset a step holds while it waits, goes to FAULTED from a requesting state or a reserved code
(60_exceptions.md R235), or follows an edge of the graph; FAULTED has no successor. -/
def Obligations.StepsFollowTheGraph : Prop :=
  ∀ s t : State, Running s → step s = .next t →
    (s.st = 0xD ∧ t = s) ∨ (Waiting s ∧ t = s) ∨ ((Requesting s.st ∨ 0xE ≤ s.st.toNat) ∧ t.st = 0xD)
    ∨ (¬ Waiting s ∧ Successor s.st t.st)

/-- 30_encoding.md R98, R101: no step of a run issues a request word outside the table. -/
def Obligations.OnlyTableWordsAreIssued : Prop :=
  (∀ (u : Unspecified) (p : Config.Params), OnlyIssued (State.resetWith u p))
  ∧ ∀ s t : State, Inv s → OnlyIssued s → step s = .next t → OnlyIssued t

/-- 42_diagnostics_framer.md R174, R175, R176: at every step boundary of a run the telemetry is complete groups and then
the part of a group that the state says is out; a fault can leave a group unended (60_exceptions.md R233). -/
def Obligations.TelemetryIsGroups : Prop :=
  (∀ (u : Unspecified) (p : Config.Params), Framed (State.resetWith u p))
  ∧ ∀ s t : State, Inv s → Framed s → step s = .next t → Framed t

/-- 30_encoding.md R93: in every run of the block each byte of the telemetry stream is of the character set, and (R84, R92)
each line that went out ends in CR LF with neither byte before that. -/
def Obligations.EmittedLinesAreText : Prop :=
  ∀ s : State, Inv s → Framed s →
    (∀ b ∈ s.telemetry, InCharacterSet b)
    ∧ ∀ l, Event.line l ∈ s.trace → ∃ body, l = body ++ [0x0D, 0x0A] ∧ (0x0D : Byte) ∉ body ∧ (0x0A : Byte) ∉ body

/-- 10_state.md R45, 60_exceptions.md R236: which operation can change which register. -/
def Obligations.RegisterWriters : Prop :=
  ∀ s t : State, Running s → step s = .next t →
    (t.status ≠ s.status → s.st = 0x2) ∧ (t.frameLen ≠ s.frameLen → s.st = 0x3)
    ∧ (t.payLen ≠ s.payLen → s.st = 0x0 ∨ s.st = 0x4) ∧ (t.buf ≠ s.buf → s.st = 0x0 ∨ s.st = 0x4)
    ∧ (t.fpRaw ≠ s.fpRaw → s.st = 0x5) ∧ (t.fp ≠ s.fp → s.st = 0x5) ∧ (t.winStart ≠ s.winStart → s.st = 0x5)
    ∧ (t.winEnd ≠ s.winEnd → s.st = 0x5) ∧ (t.idx ≠ s.idx → s.st = 0x7 ∨ s.st = 0x9)
    ∧ (t.re ≠ s.re → s.st = 0x8) ∧ (t.im ≠ s.im → s.st = 0x8) ∧ (t.magMilli ≠ s.magMilli → s.st = 0x8)
    ∧ (t.faultCode ≠ s.faultCode ∨ t.faultState ≠ s.faultState ∨ t.faultIdx ≠ s.faultIdx → t.st = 0xD)

/-- 20_memory.md R60, R68, R69: a step observes at most one event, after all earlier ones, takes at most one response,
and changes no input or parameter. -/
def Obligations.OneEventPerStep : Prop :=
  ∀ s t : State, Running s → step s = .next t →
    (t.trace = s.trace ∧ t.responses = s.responses
      ∨ (∃ w r, s.responses = r :: t.responses ∧ t.trace = s.trace ++ [.request w r])
      ∨ ∃ l, t.responses = s.responses ∧ t.trace = s.trace ++ [.line l])
    ∧ t.params = s.params ∧ t.sinkHold = s.sinkHold ∧ t.rstIn = s.rstIn ∧ t.rstDraw = s.rstDraw ∧ t.bench = []

/-- 10_state.md R26, R27, R28; 90_conflicts.md C1: no row of the table reads the frame buffer, `pay_len` or `fp_raw`; two
states that differ only there answer alike but for those three. -/
def Obligations.UnreadRegistersDoNotMatter : Prop :=
  ∀ (i : Instr) (s : State) (b : Memory) (n : BitVec 8) (f : BitVec 16),
    SameButUnread (exec i s) (exec i { s with buf := b, payLen := n, fpRaw := f })

/-! ## Runs -/

/-- 41_cir_window_extractor.md R150, 42_diagnostics_framer.md R174, R176, 43_receive_state_machine.md R206: from S_REP_META
with one record ready for each index of the window, the block reads each index once, in ascending order, prints it, and
closes the group, in `3 + 2w` steps. -/
def Obligations.GroupRun : Prop :=
  ∀ (s : State) (fp : Nat) (rs : List Record) (rest : List Response),
    Running s → s.sinkHold = false → s.st = 0x6 → fp ≤ 1023 →
    s.fp.toNat = fp → s.winStart.toNat = startOf fp → s.winEnd.toNat = stopOf fp →
    rs.length = stopOf fp - startOf fp + 1 → s.responses = rs.map recordResponse ++ rest →
    ∃ t, Host.Core.run core (3 + 2 * rs.length) s = .next t ∧ t.st = 0xB ∧ t.responses = rest
      ∧ t.idx.toNat = stopOf fp + 1 ∧ t.trace = s.trace ++ groupEvents fp rs

/-- 43_receive_state_machine.md R206, R209, R210: a good iteration with `p` PENDING polls issues its requests and lines in
that order and no other, and comes back to S_ARM_CLEAR after `p + 9 + c + 2w` steps with the payload in the buffer. -/
def Obligations.GoodIteration : Prop :=
  ∀ (s : State) (ps : List Word32) (g info : Word32) (len : Nat) (pay : List Byte) (raw : BitVec 16)
    (other : List Byte) (rs : List Record) (rest : List Response),
    Running s → s.sinkHold = false → s.st = 0x0 →
    (∀ w ∈ ps, w &&& s.params.goodMask = 0 ∧ w &&& s.params.errMask = 0) → g &&& s.params.goodMask ≠ 0 →
    len = (info &&& s.params.rxlenMask).toNat →
    pay.length = (if 2 < len ∧ len ≤ 127 then len - 2 else 0) →
    rs.length = stopOf (fpOf raw) - startOf (fpOf raw) + 1 →
    s.responses = .ack :: (ps.map .word ++ .word g :: .word info ::
      ((if pay = [] then [] else [.bytes pay]) ++ .diag raw other :: (rs.map recordResponse ++ .ack :: rest))) →
    ∃ t, Host.Core.run core (ps.length + 9 + (if pay = [] then 0 else 1) + 2 * rs.length) s = .next t
      ∧ t.st = 0x0 ∧ t.responses = rest ∧ t.payLen.toNat = pay.length
      ∧ (∀ k, k < 127 → Memory.read t.buf k = some (pay.getD k 0))
      ∧ t.trace = s.trace ++ .request 0x1000000000000000 .ack :: (pollEvents ps
        ++ .request 0x2000000000000000 (.word g) :: .request 0x2100000000000000 (.word info)
        :: ((if pay = [] then [] else [.request (rxDataWordOf pay.length) (.bytes pay)])
        ++ .request 0x6000000000000000 (.diag raw other)
        :: (groupEvents (fpOf raw) rs ++ [.request (clearWordOf s.params.goodMask) .ack])))

/-- R200, R201, R209, R210: an error iteration with `p` PENDING polls takes `p + 4` steps, emits nothing and leaves the
buffer cleared. -/
def Obligations.ErrorIteration : Prop :=
  ∀ (s : State) (ps : List Word32) (e : Word32) (rest : List Response),
    Running s → s.st = 0x0 → (∀ w ∈ ps, w &&& s.params.goodMask = 0 ∧ w &&& s.params.errMask = 0) →
    e &&& s.params.goodMask = 0 → e &&& s.params.errMask ≠ 0 →
    s.responses = .ack :: (ps.map .word ++ .word e :: .ack :: rest) →
    ∃ t, Host.Core.run core (ps.length + 4) s = .next t
      ∧ t = { s with
        responses := rest, status := e, payLen := 0, buf := t.buf
        trace := s.trace ++ .request 0x1000000000000000 .ack :: (pollEvents ps
          ++ [.request 0x2000000000000000 (.word e), .request (clearWordOf s.params.errMask) .ack]) }
      ∧ t.telemetry = s.telemetry ∧ ∀ k, k < 127 → Memory.read t.buf k = some 0

/-- R203, 70_reset_and_hazards.md R265: however many PENDING statuses come, the block is still in S_POLL after them. -/
def Obligations.PendingStatusesNeverEndThePoll : Prop :=
  ∀ (s : State) (ps : List Word32) (rest : List Response),
    Running s → s.st = 0x2 → (∀ w ∈ ps, w &&& s.params.goodMask = 0 ∧ w &&& s.params.errMask = 0) →
    s.responses = ps.map .word ++ rest →
    ∃ t, Host.Core.run core ps.length s = .next t ∧ t.st = 0x2 ∧ t.responses = rest
      ∧ t.trace = s.trace ++ pollEvents ps

/-- 60_exceptions.md R236, R241; 43_receive_state_machine.md R211: without reset no number of steps leaves FAULTED, changes
the record, issues a request or emits a byte, whatever the inputs hold. -/
def Obligations.FaultedForEver : Prop :=
  ∀ (k : Nat) (s : State), s.params.wf = true → s.rstIn = false → s.st = 0xD → Host.Core.run core k s = .next s
end

