-- ==== Sys2Proof/Laws/PerInstr.lean ====
section
/-! SUPPORT. One law per row of the opcode table: the length of its encoding, which is what the decoder picks the format
by (30_encoding.md R103; log 19). -/

namespace Sys2Proof.Laws.EncodedLength

open Sys2Proof Sys2Proof.Machine

/-- A state code stands in one byte, a record has seven bytes, a request word eight, and a line more. -/
def Statement : Instr → Prop
  | .sArmClear => (encode .sArmClear).length = 1
  | .sArmReq => (encode .sArmReq).length = 1
  | .sPoll => (encode .sPoll).length = 1
  | .sGoodLen => (encode .sGoodLen).length = 1
  | .sGoodCopy => (encode .sGoodCopy).length = 1
  | .sGoodDiag => (encode .sGoodDiag).length = 1
  | .sRepMeta => (encode .sRepMeta).length = 1
  | .sRepBegin => (encode .sRepBegin).length = 1
  | .sExtRead => (encode .sExtRead).length = 1
  | .sExtEmit => (encode .sExtEmit).length = 1
  | .sRepEnd => (encode .sRepEnd).length = 1
  | .sGoodClr => (encode .sGoodClr).length = 1
  | .sErrClr => (encode .sErrClr).length = 1
  | .sFault => (encode .sFault).length = 1
  | .sReserved low => (encode (.sReserved low)).length = 1
  | .armRx => (encode .armRx).length = 8
  | .readReg32Status => (encode .readReg32Status).length = 8
  | .readReg32Rxinfo => (encode .readReg32Rxinfo).length = 8
  | .writeClear32 mask => (encode (.writeClear32 mask)).length = 8
  | .readRxData len => (encode (.readRxData len)).length = 8
  | .readAcc index => (encode (.readAcc index)).length = 8
  | .readDiag => (encode .readDiag).length = 8
  | .tlmCirMeta fp start stop => 8 < (encode (.tlmCirMeta fp start stop)).length
  | .tlmFrameBegin => 8 < (encode .tlmFrameBegin).length
  | .tlmCir index real imag mag => 8 < (encode (.tlmCir index real imag mag)).length
  | .tlmFrameEnd => 8 < (encode .tlmFrameEnd).length
  | .accRecord w => (encode (.accRecord w)).length = 7

theorem length_leBytes (n w : Nat) : (leBytes n w).length = n := by
  induction n generalizing w with
  | zero => rfl
  | succ n ih => rw [leBytes, List.length_cons, ih]

theorem sArmClear : Statement .sArmClear := rfl
theorem sArmReq : Statement .sArmReq := rfl
theorem sPoll : Statement .sPoll := rfl
theorem sGoodLen : Statement .sGoodLen := rfl
theorem sGoodCopy : Statement .sGoodCopy := rfl
theorem sGoodDiag : Statement .sGoodDiag := rfl
theorem sRepMeta : Statement .sRepMeta := rfl
theorem sRepBegin : Statement .sRepBegin := rfl
theorem sExtRead : Statement .sExtRead := rfl
theorem sExtEmit : Statement .sExtEmit := rfl
theorem sRepEnd : Statement .sRepEnd := rfl
theorem sGoodClr : Statement .sGoodClr := rfl
theorem sErrClr : Statement .sErrClr := rfl
theorem sFault : Statement .sFault := rfl
theorem sReserved (low : BitVec 1) : Statement (.sReserved low) := rfl
theorem armRx : Statement .armRx := length_leBytes _ _
theorem readReg32Status : Statement .readReg32Status := length_leBytes _ _
theorem readReg32Rxinfo : Statement .readReg32Rxinfo := length_leBytes _ _
theorem writeClear32 (mask : Word32) : Statement (.writeClear32 mask) := length_leBytes _ _
theorem readRxData (len : BitVec 16) : Statement (.readRxData len) := length_leBytes _ _
theorem readAcc (index : BitVec 10) : Statement (.readAcc index) := length_leBytes _ _
theorem readDiag : Statement .readDiag := length_leBytes _ _
theorem accRecord (w : BitVec 56) : Statement (.accRecord w) := length_leBytes _ _

theorem tlmCirMeta (fp start stop : BitVec 10) : Statement (.tlmCirMeta fp start stop) := by
  show 8 < (metaLine fp.toNat start.toNat stop.toNat).length
  have h : textMeta.length = 12 := rfl
  rw [metaLine]
  repeat rw [List.length_append]
  omega

theorem tlmFrameBegin : Statement .tlmFrameBegin := (by decide : 8 < beginLine.length)

theorem tlmCir (index : BitVec 10) (real imag : BitVec 18) (mag : BitVec 28) :
    Statement (.tlmCir index real imag mag) := by
  show 8 < (cirLine index.toNat real.toInt imag.toInt mag.toNat).length
  have h : textCir.length = 4 := rfl
  have hc : crlf.length = 2 := rfl
  have hd : (d3 (mag.toNat % 1000)).length = 3 := rfl
  rw [cirLine, mdec]
  simp only [List.length_append, List.length_cons]
  omega

theorem tlmFrameEnd : Statement .tlmFrameEnd := (by decide : 8 < endLine.length)

end Sys2Proof.Laws.EncodedLength
end

