-- ==== Sys2Proof/Laws/Decode.lean ====
section
/-! SUPPORT. Bytes and numbers, and literals at the start of a line: what the decoder and the encoder share. -/

namespace Sys2Proof

theorem ofLeBytes_leBytes (n w : Nat) : ofLeBytes (leBytes n w) = w % 256 ^ n := by
  induction n generalizing w with
  | zero => simp [ofLeBytes, leBytes, Nat.mod_one]
  | succ n ih =>
    have hb : (BitVec.ofNat 8 w).toNat = w % 256 := by simp
    rw [leBytes, ofLeBytes, ih, hb, Nat.pow_succ, Nat.mul_comm (256 ^ n), Nat.mod_mul]

theorem ofLeBytes_lt (bs : List Byte) : ofLeBytes bs < 256 ^ bs.length := by
  induction bs with
  | nil => simp [ofLeBytes]
  | cons b bs ih =>
    have hb := b.isLt
    rw [ofLeBytes, List.length_cons, Nat.pow_succ]
    omega

theorem leBytes_ofLeBytes (bs : List Byte) : leBytes bs.length (ofLeBytes bs) = bs := by
  induction bs with
  | nil => rfl
  | cons b bs ih =>
    have hb := b.isLt
    have hlow : BitVec.ofNat 8 (b.toNat + 256 * ofLeBytes bs) = b := by
      apply BitVec.eq_of_toNat_eq
      rw [BitVec.toNat_ofNat]
      omega
    have hrest : (b.toNat + 256 * ofLeBytes bs) / 256 = ofLeBytes bs := by omega
    rw [List.length_cons, ofLeBytes, leBytes, hlow, hrest, ih]

/-- Bytes that are not a single one are read as what stands at the boundary. -/
theorem decode_boundary {bs : List Byte} (h : bs.length ≠ 1) : decode bs = decodeBoundary bs := by
  match bs, h with
  | [], _ => rfl
  | [b], h => exact absurd rfl h
  | _ :: _ :: _, _ => rfl

theorem decode_request (w : BitVec 64) : decode (leBytes 8 w.toNat) = decodeRequest w := by
  have hl : (leBytes 8 w.toNat).length = 8 := Laws.EncodedLength.length_leBytes 8 _
  have hw : BitVec.ofNat 64 (ofLeBytes (leBytes 8 w.toNat)) = w := by
    apply BitVec.eq_of_toNat_eq
    have hlt := w.isLt
    rw [ofLeBytes_leBytes, BitVec.toNat_ofNat]
    omega
  rw [decode_boundary (by omega), decodeBoundary, if_neg (by omega), if_pos hl, hw]

theorem stripText_append (p rest : List Byte) : stripText p (p ++ rest) = some rest := by
  induction p with
  | nil => rfl
  | cons b p ih => rw [List.cons_append, stripText, if_pos rfl, ih]

end Sys2Proof
end

