-- ==== Sys2Proof/Laws/Memory.lean ====
section
/-! SUPPORT. The laws of the frame buffer: a read after a write, and every operation keeps the canonical form. -/

namespace Sys2Proof.Machine

theorem Memory.read_write_same (m : Memory) (a : Nat) (v : Byte) : Memory.read (Memory.write m a v) a = some v := by
  induction m with
  | nil => simp [Memory.write, Memory.read]
  | cons c m ih =>
    obtain ⟨b, w⟩ := c
    by_cases h1 : a < b
    · simp [Memory.write, Memory.read, h1]
    · by_cases h2 : a = b
      · simp [Memory.write, Memory.read, h2]
      · simp [Memory.write, Memory.read, h1, h2, ih]

theorem Memory.read_write_other (m : Memory) (a k : Nat) (v : Byte) (h : k ≠ a) :
    Memory.read (Memory.write m a v) k = Memory.read m k := by
  induction m with
  | nil => simp [Memory.write, Memory.read, h]
  | cons c m ih =>
    obtain ⟨b, w⟩ := c
    by_cases h1 : a < b
    · simp [Memory.write, Memory.read, h1, h]
    · by_cases h2 : a = b
      · subst h2; simp [Memory.write, Memory.read, h]
      · simp only [Memory.write, h1, h2, if_false, Memory.read, ih]

/-- The addresses after a write are the old ones and the one written. -/
theorem Memory.mem_write {m : Memory} {a : Nat} {v : Byte} {c : Host.Cell} (h : c ∈ Memory.write m a v) :
    c = (a, v) ∨ c ∈ m := by
  induction m with
  | nil => exact Or.inl (by simpa [Memory.write] using h)
  | cons d m ih =>
    obtain ⟨b, w⟩ := d
    by_cases h1 : a < b
    · simpa [Memory.write, h1] using h
    · by_cases h2 : a = b
      · simp only [Memory.write, h2, lt_irrefl, if_false, if_true, List.mem_cons] at h
        rcases h with h | h
        · exact Or.inl (h2 ▸ h)
        · exact Or.inr (List.mem_cons_of_mem _ h)
      · simp only [Memory.write, h1, h2, if_false, List.mem_cons] at h
        rcases h with h | h
        · exact Or.inr (h ▸ List.mem_cons_self)
        · exact (ih h).imp id (List.mem_cons_of_mem _)

/-- A write at an existing address keeps the canonical form. -/
theorem Memory.write_wf {m : Memory} {a : Nat} (v : Byte) (hm : Memory.wf m) (ha : a < Config.rxBufCap) :
    Memory.wf (Memory.write m a v) := by
  obtain ⟨hs, hb⟩ := hm
  refine ⟨?_, fun c hc => ?_⟩
  · induction m with
    | nil => simp [Memory.write]
    | cons d m ih =>
      obtain ⟨b, w⟩ := d
      rw [List.map_cons, List.pairwise_cons] at hs
      by_cases h1 : a < b
      · simp only [Memory.write, h1, if_true, List.map_cons, List.pairwise_cons]
        refine ⟨fun x hx => ?_, hs⟩
        rcases List.mem_cons.1 hx with hx | hx
        · exact hx ▸ h1
        · exact h1.trans (hs.1 x hx)
      · by_cases h2 : a = b
        · subst h2
          simpa [Memory.write] using hs
        · simp only [Memory.write, h1, h2, if_false, List.map_cons, List.pairwise_cons]
          refine ⟨fun x hx => ?_, ih hs.2 fun c hc => hb c (List.mem_cons_of_mem _ hc)⟩
          obtain ⟨c, hc, rfl⟩ := List.mem_map.1 hx
          rcases Memory.mem_write hc with hc | hc
          · subst hc; simp only; omega
          · exact hs.1 _ (List.mem_map_of_mem hc)
  · rcases Memory.mem_write hc with hc | hc
    · exact hc ▸ ha
    · exact hb c hc

theorem Memory.nil_wf : Memory.wf [] := by simp [Memory.wf]

theorem Memory.writeBytes_wf {m m' : Memory} {a : Nat} {vs : List Byte} (h : Memory.writeBytes m a vs = some m')
    (hm : Memory.wf m) : Memory.wf m' := by
  induction vs generalizing m a with
  | nil => simp only [Memory.writeBytes, Option.some.injEq] at h; exact h ▸ hm
  | cons v vs ih =>
    simp only [Memory.writeBytes] at h
    split at h
    · next ha => exact ih h (Memory.write_wf v hm ha)
    · simp at h

/-- Bytes that all have an address are written. -/
theorem Memory.writeBytes_isSome (m : Memory) (a : Nat) (vs : List Byte) (h : a + vs.length ≤ Config.rxBufCap) :
    ∃ m', Memory.writeBytes m a vs = some m' := by
  induction vs generalizing m a with
  | nil => exact ⟨m, rfl⟩
  | cons v vs ih =>
    have ha : a < Config.rxBufCap := by simp only [List.length_cons] at h; omega
    simp only [Memory.writeBytes, if_pos ha]
    exact ih _ _ (by simp only [List.length_cons] at h; omega)

/-- A byte with no address stops the write. -/
theorem Memory.writeBytes_none (m : Memory) (a : Nat) (vs : List Byte) (h : Config.rxBufCap < a + vs.length)
    (ha : a ≤ Config.rxBufCap) : Memory.writeBytes m a vs = none := by
  induction vs generalizing m a with
  | nil => simp only [List.length_nil] at h; omega
  | cons v vs ih =>
    by_cases hlt : a < Config.rxBufCap
    · simp only [Memory.writeBytes, if_pos hlt]
      exact ih _ _ (by simp only [List.length_cons] at h; omega) (by omega)
    · simp only [Memory.writeBytes, if_neg hlt]

/-- What every address reads as after bytes have been written from an address on. -/
theorem Memory.read_writeBytes {m m' : Memory} {a : Nat} {vs : List Byte} (h : Memory.writeBytes m a vs = some m')
    (k : Nat) :
    Memory.read m' k = if a ≤ k ∧ k < a + vs.length then vs[k - a]? else Memory.read m k := by
  induction vs generalizing m a with
  | nil =>
    simp only [Memory.writeBytes, Option.some.injEq] at h
    subst h
    have hn : ¬ (a ≤ k ∧ k < a + ([] : List Byte).length) := by simp only [List.length_nil]; omega
    rw [if_neg hn]
  | cons v vs ih =>
    simp only [Memory.writeBytes] at h
    split at h
    · rw [ih h]
      by_cases hk : k = a
      · subst hk
        rw [if_neg (by omega), Memory.read_write_same, if_pos (by simp only [List.length_cons]; omega)]
        simp
      · rw [Memory.read_write_other _ _ _ _ hk]
        by_cases h2 : a + 1 ≤ k ∧ k < a + 1 + vs.length
        · rw [if_pos h2, if_pos (by simp only [List.length_cons]; omega)]
          have he : k - a = (k - (a + 1)) + 1 := by omega
          rw [he, List.getElem?_cons_succ]
        · rw [if_neg h2, if_neg (by simp only [List.length_cons]; omega)]
    · simp at h

theorem Memory.read_zeros (k : Nat) (as : List Nat) :
    Memory.read (as.map fun a => (a, (0x00 : Byte))) k = if k ∈ as then some 0 else none := by
  induction as with
  | nil => simp [Memory.read]
  | cons a as ih =>
    simp only [List.map_cons, Memory.read, ih, List.mem_cons]
    by_cases h : k = a
    · simp [h]
    · simp [h]

/-- The cleared buffer reads 0x00 at each of its 127 addresses, and nothing elsewhere (43_receive_state_machine.md R191). -/
theorem Memory.read_cleared (k : Nat) : Memory.read Memory.cleared k = if k < 127 then some 0 else none := by
  simp only [Memory.cleared, Memory.read_zeros, List.mem_range]

theorem Memory.cleared_wf : Memory.wf Memory.cleared := by
  refine ⟨?_, fun c hc => ?_⟩
  · have h : Memory.cleared.map Prod.fst = List.range 127 := by
      simp only [Memory.cleared, List.map_map]
      exact List.map_id _
    rw [h]
    exact List.pairwise_lt_range
  · obtain ⟨k, hk, rfl⟩ := List.mem_map.1 hc
    exact List.mem_range.1 hk

end Sys2Proof.Machine
end

