-- ==== Sys2Proof/Laws/Operands.lean ====
section
/-! SUPPORT. The pure functions of an operation as arithmetic on numbers: the sign extension (40_sample_decoder.md R122),
the record's fields (30_encoding.md R82), the substitution (42_diagnostics_framer.md R170) and the window
(41_cir_window_extractor.md R140). -/

namespace Sys2Proof.Machine

theorem sext18_eq (raw : BitVec 18) : sext18 raw = Safety.fieldValue raw.toNat := by
  have hlt := raw.isLt
  have hm : raw.msb = raw.getLsbD 17 := by simp [BitVec.msb_eq_getLsbD_last]
  have hb : raw.getLsbD 17 = decide (131072 ≤ raw.toNat) := by rw [← hm, BitVec.msb_eq_decide]
  unfold sext18 Safety.fieldValue
  rw [hb]
  by_cases h : raw.toNat < 131072
  · rw [if_pos h, if_neg (by simp; omega)]
  · rw [if_neg h, if_pos (by simp; omega)]

theorem fieldValue_range {n : Nat} (h : n < 262144) :
    -131072 ≤ Safety.fieldValue n ∧ Safety.fieldValue n ≤ 131071 := by
  unfold Safety.fieldValue
  split <;> omega

/-- Two bits of the third byte, then the second, then the first. -/
theorem fieldBytes_toNat (lo mid hi : Byte) :
    (hi.extractLsb' 0 2 ++ mid ++ lo : BitVec 18).toNat = lo.toNat + 256 * mid.toNat + 65536 * (hi.toNat % 4) := by
  have hl := lo.isLt
  have hm := mid.isLt
  simp only [BitVec.toNat_append, BitVec.extractLsb'_toNat]
  rw [← Nat.shiftLeft_add_eq_or_of_lt hm, ← Nat.shiftLeft_add_eq_or_of_lt hl]
  simp only [Nat.shiftLeft_eq, Nat.shiftRight_zero]
  omega

theorem decodeSample_eq (r : Record) : decodeSample r = (Safety.reOf r, Safety.imOf r) := by
  simp only [decodeSample, sext18_eq, rawRe, rawIm, fieldBytes_toNat, Safety.reOf, Safety.imOf]

/-- A 32-bit register holds every component exactly (10_state.md R32). -/
theorem toS32_toInt {v : Int} (h : -131072 ≤ v ∧ v ≤ 131071) : (toS32 v).toInt = v := by
  rw [toS32, BitVec.toInt_ofInt]
  unfold Int.bmod
  simp
  omega

theorem fpOf_le (raw : BitVec 16) : Safety.fpOf raw ≤ 1023 := by
  unfold Safety.fpOf
  split <;> omega

theorem substFp_toNat (raw : BitVec 16) : (substFp raw).toNat = Safety.fpOf raw := by
  unfold substFp Safety.fpOf
  simp only [Config.accCap]
  split
  · simp; omega
  · simp

theorem windowStart_toNat (fp : BitVec 10) : (windowStart fp).toNat = Safety.startOf fp.toNat := by
  have h := fp.isLt
  simp only [windowStart, Safety.startOf, Config.preMargin, BitVec.toNat_ofNat]
  omega

theorem windowEnd_toNat (fp : BitVec 10) : (windowEnd fp).toNat = Safety.stopOf fp.toNat := by
  simp only [windowEnd, Safety.stopOf, Config.accCap, Config.postMargin, BitVec.toNat_ofNat]
  omega

end Sys2Proof.Machine
end

