-- ==== Sys2Proof/Laws/State.lean ====
section
/-! SUPPORT. One lemma for each field after each shared update of the state, so that no proof unfolds a record update. -/

namespace Sys2Proof.Machine

/-! ### Fault entry (60_exceptions.md R233) -/

@[simp] theorem State.raiseFault_st (s : State) (c : Code) : (s.raiseFault c).st = 0xD := rfl
@[simp] theorem State.raiseFault_status (s : State) (c : Code) : (s.raiseFault c).status = s.status := rfl
@[simp] theorem State.raiseFault_frameLen (s : State) (c : Code) : (s.raiseFault c).frameLen = s.frameLen := rfl
@[simp] theorem State.raiseFault_payLen (s : State) (c : Code) : (s.raiseFault c).payLen = s.payLen := rfl
@[simp] theorem State.raiseFault_buf (s : State) (c : Code) : (s.raiseFault c).buf = s.buf := rfl
@[simp] theorem State.raiseFault_fpRaw (s : State) (c : Code) : (s.raiseFault c).fpRaw = s.fpRaw := rfl
@[simp] theorem State.raiseFault_fp (s : State) (c : Code) : (s.raiseFault c).fp = s.fp := rfl
@[simp] theorem State.raiseFault_winStart (s : State) (c : Code) : (s.raiseFault c).winStart = s.winStart := rfl
@[simp] theorem State.raiseFault_winEnd (s : State) (c : Code) : (s.raiseFault c).winEnd = s.winEnd := rfl
@[simp] theorem State.raiseFault_idx (s : State) (c : Code) : (s.raiseFault c).idx = s.idx := rfl
@[simp] theorem State.raiseFault_re (s : State) (c : Code) : (s.raiseFault c).re = s.re := rfl
@[simp] theorem State.raiseFault_im (s : State) (c : Code) : (s.raiseFault c).im = s.im := rfl
@[simp] theorem State.raiseFault_magMilli (s : State) (c : Code) : (s.raiseFault c).magMilli = s.magMilli := rfl
@[simp] theorem State.raiseFault_faultCode (s : State) (c : Code) : (s.raiseFault c).faultCode = c := rfl
@[simp] theorem State.raiseFault_faultState (s : State) (c : Code) : (s.raiseFault c).faultState = s.st := rfl
@[simp] theorem State.raiseFault_faultIdx (s : State) (c : Code) : (s.raiseFault c).faultIdx = if c = fAccRead then idxLow s else 0 := rfl
@[simp] theorem State.raiseFault_trace (s : State) (c : Code) : (s.raiseFault c).trace = s.trace := rfl
@[simp] theorem State.raiseFault_responses (s : State) (c : Code) : (s.raiseFault c).responses = s.responses := rfl
@[simp] theorem State.raiseFault_sinkHold (s : State) (c : Code) : (s.raiseFault c).sinkHold = s.sinkHold := rfl
@[simp] theorem State.raiseFault_rstIn (s : State) (c : Code) : (s.raiseFault c).rstIn = s.rstIn := rfl
@[simp] theorem State.raiseFault_rstDraw (s : State) (c : Code) : (s.raiseFault c).rstDraw = s.rstDraw := rfl
@[simp] theorem State.raiseFault_params (s : State) (c : Code) : (s.raiseFault c).params = s.params := rfl
@[simp] theorem State.raiseFault_bench (s : State) (c : Code) : (s.raiseFault c).bench = s.bench := rfl
@[simp] theorem State.raiseFault_freeCount (s : State) (c : Code) : (s.raiseFault c).freeCount = s.freeCount := rfl

/-! ### A request answered (20_memory.md R60) -/

@[simp] theorem State.answered_st (s : State) (w : BitVec 64) (r : Response) (rest : List Response) : (s.answered w r rest).st = s.st := rfl
@[simp] theorem State.answered_status (s : State) (w : BitVec 64) (r : Response) (rest : List Response) : (s.answered w r rest).status = s.status := rfl
@[simp] theorem State.answered_frameLen (s : State) (w : BitVec 64) (r : Response) (rest : List Response) : (s.answered w r rest).frameLen = s.frameLen := rfl
@[simp] theorem State.answered_payLen (s : State) (w : BitVec 64) (r : Response) (rest : List Response) : (s.answered w r rest).payLen = s.payLen := rfl
@[simp] theorem State.answered_buf (s : State) (w : BitVec 64) (r : Response) (rest : List Response) : (s.answered w r rest).buf = s.buf := rfl
@[simp] theorem State.answered_fpRaw (s : State) (w : BitVec 64) (r : Response) (rest : List Response) : (s.answered w r rest).fpRaw = s.fpRaw := rfl
@[simp] theorem State.answered_fp (s : State) (w : BitVec 64) (r : Response) (rest : List Response) : (s.answered w r rest).fp = s.fp := rfl
@[simp] theorem State.answered_winStart (s : State) (w : BitVec 64) (r : Response) (rest : List Response) : (s.answered w r rest).winStart = s.winStart := rfl
@[simp] theorem State.answered_winEnd (s : State) (w : BitVec 64) (r : Response) (rest : List Response) : (s.answered w r rest).winEnd = s.winEnd := rfl
@[simp] theorem State.answered_idx (s : State) (w : BitVec 64) (r : Response) (rest : List Response) : (s.answered w r rest).idx = s.idx := rfl
@[simp] theorem State.answered_re (s : State) (w : BitVec 64) (r : Response) (rest : List Response) : (s.answered w r rest).re = s.re := rfl
@[simp] theorem State.answered_im (s : State) (w : BitVec 64) (r : Response) (rest : List Response) : (s.answered w r rest).im = s.im := rfl
@[simp] theorem State.answered_magMilli (s : State) (w : BitVec 64) (r : Response) (rest : List Response) : (s.answered w r rest).magMilli = s.magMilli := rfl
@[simp] theorem State.answered_faultCode (s : State) (w : BitVec 64) (r : Response) (rest : List Response) : (s.answered w r rest).faultCode = s.faultCode := rfl
@[simp] theorem State.answered_faultState (s : State) (w : BitVec 64) (r : Response) (rest : List Response) : (s.answered w r rest).faultState = s.faultState := rfl
@[simp] theorem State.answered_faultIdx (s : State) (w : BitVec 64) (r : Response) (rest : List Response) : (s.answered w r rest).faultIdx = s.faultIdx := rfl
@[simp] theorem State.answered_trace (s : State) (w : BitVec 64) (r : Response) (rest : List Response) : (s.answered w r rest).trace = s.trace ++ [.request w r] := rfl
@[simp] theorem State.answered_responses (s : State) (w : BitVec 64) (r : Response) (rest : List Response) : (s.answered w r rest).responses = rest := rfl
@[simp] theorem State.answered_sinkHold (s : State) (w : BitVec 64) (r : Response) (rest : List Response) : (s.answered w r rest).sinkHold = s.sinkHold := rfl
@[simp] theorem State.answered_rstIn (s : State) (w : BitVec 64) (r : Response) (rest : List Response) : (s.answered w r rest).rstIn = s.rstIn := rfl
@[simp] theorem State.answered_rstDraw (s : State) (w : BitVec 64) (r : Response) (rest : List Response) : (s.answered w r rest).rstDraw = s.rstDraw := rfl
@[simp] theorem State.answered_params (s : State) (w : BitVec 64) (r : Response) (rest : List Response) : (s.answered w r rest).params = s.params := rfl
@[simp] theorem State.answered_bench (s : State) (w : BitVec 64) (r : Response) (rest : List Response) : (s.answered w r rest).bench = s.bench := rfl
@[simp] theorem State.answered_freeCount (s : State) (w : BitVec 64) (r : Response) (rest : List Response) : (s.answered w r rest).freeCount = s.freeCount := rfl

/-! ### A test bench's word taken away (log 7) -/

@[simp] theorem State.taken_st (s : State) : (s.taken).st = s.st := rfl
@[simp] theorem State.taken_status (s : State) : (s.taken).status = s.status := rfl
@[simp] theorem State.taken_frameLen (s : State) : (s.taken).frameLen = s.frameLen := rfl
@[simp] theorem State.taken_payLen (s : State) : (s.taken).payLen = s.payLen := rfl
@[simp] theorem State.taken_buf (s : State) : (s.taken).buf = s.buf := rfl
@[simp] theorem State.taken_fpRaw (s : State) : (s.taken).fpRaw = s.fpRaw := rfl
@[simp] theorem State.taken_fp (s : State) : (s.taken).fp = s.fp := rfl
@[simp] theorem State.taken_winStart (s : State) : (s.taken).winStart = s.winStart := rfl
@[simp] theorem State.taken_winEnd (s : State) : (s.taken).winEnd = s.winEnd := rfl
@[simp] theorem State.taken_idx (s : State) : (s.taken).idx = s.idx := rfl
@[simp] theorem State.taken_re (s : State) : (s.taken).re = s.re := rfl
@[simp] theorem State.taken_im (s : State) : (s.taken).im = s.im := rfl
@[simp] theorem State.taken_magMilli (s : State) : (s.taken).magMilli = s.magMilli := rfl
@[simp] theorem State.taken_faultCode (s : State) : (s.taken).faultCode = s.faultCode := rfl
@[simp] theorem State.taken_faultState (s : State) : (s.taken).faultState = s.faultState := rfl
@[simp] theorem State.taken_faultIdx (s : State) : (s.taken).faultIdx = s.faultIdx := rfl
@[simp] theorem State.taken_trace (s : State) : (s.taken).trace = s.trace := rfl
@[simp] theorem State.taken_responses (s : State) : (s.taken).responses = s.responses := rfl
@[simp] theorem State.taken_sinkHold (s : State) : (s.taken).sinkHold = s.sinkHold := rfl
@[simp] theorem State.taken_rstIn (s : State) : (s.taken).rstIn = s.rstIn := rfl
@[simp] theorem State.taken_rstDraw (s : State) : (s.taken).rstDraw = s.rstDraw := rfl
@[simp] theorem State.taken_params (s : State) : (s.taken).params = s.params := rfl
@[simp] theorem State.taken_bench (s : State) : (s.taken).bench = [] := rfl
@[simp] theorem State.taken_freeCount (s : State) : (s.taken).freeCount = s.freeCount := rfl

/-! ### Reset (10_state.md R43; 70_reset_and_hazards.md R260) -/

@[simp] theorem State.applyReset_st (s : State) : s.applyReset.st = 0x0 := rfl
@[simp] theorem State.applyReset_status (s : State) : s.applyReset.status = s.rstDraw.status := rfl
@[simp] theorem State.applyReset_frameLen (s : State) : s.applyReset.frameLen = s.rstDraw.frameLen := rfl
@[simp] theorem State.applyReset_payLen (s : State) : s.applyReset.payLen = s.rstDraw.payLen := rfl
@[simp] theorem State.applyReset_buf (s : State) : s.applyReset.buf = [] := rfl
@[simp] theorem State.applyReset_fpRaw (s : State) : s.applyReset.fpRaw = s.rstDraw.fpRaw := rfl
@[simp] theorem State.applyReset_fp (s : State) : s.applyReset.fp = s.rstDraw.fp := rfl
@[simp] theorem State.applyReset_winStart (s : State) : s.applyReset.winStart = s.rstDraw.winStart := rfl
@[simp] theorem State.applyReset_winEnd (s : State) : s.applyReset.winEnd = s.rstDraw.winEnd := rfl
@[simp] theorem State.applyReset_idx (s : State) : s.applyReset.idx = s.rstDraw.idx := rfl
@[simp] theorem State.applyReset_re (s : State) : s.applyReset.re = s.rstDraw.re := rfl
@[simp] theorem State.applyReset_im (s : State) : s.applyReset.im = s.rstDraw.im := rfl
@[simp] theorem State.applyReset_magMilli (s : State) : s.applyReset.magMilli = s.rstDraw.magMilli := rfl
@[simp] theorem State.applyReset_faultCode (s : State) : s.applyReset.faultCode = 0 := rfl
@[simp] theorem State.applyReset_faultState (s : State) : s.applyReset.faultState = 0 := rfl
@[simp] theorem State.applyReset_faultIdx (s : State) : s.applyReset.faultIdx = 0 := rfl
@[simp] theorem State.applyReset_trace (s : State) : s.applyReset.trace = [] := rfl
@[simp] theorem State.applyReset_responses (s : State) : s.applyReset.responses = s.responses := rfl
@[simp] theorem State.applyReset_sinkHold (s : State) : s.applyReset.sinkHold = s.sinkHold := rfl
@[simp] theorem State.applyReset_rstIn (s : State) : s.applyReset.rstIn = s.rstIn := rfl
@[simp] theorem State.applyReset_rstDraw (s : State) : s.applyReset.rstDraw = s.rstDraw := rfl
@[simp] theorem State.applyReset_params (s : State) : s.applyReset.params = s.params := rfl
@[simp] theorem State.applyReset_bench (s : State) : s.applyReset.bench = [] := rfl
@[simp] theorem State.applyReset_freeCount (s : State) : s.applyReset.freeCount = s.freeCount := rfl

/-- What asserting, releasing and not asserting reset do (70_reset_and_hazards.md R260). -/
theorem State.setReset_true (s : State) : s.setReset true = { s.applyReset with rstIn := true } := rfl
theorem State.setReset_false {s : State} (h : s.rstIn = true) :
    s.setReset false = { s.applyReset with rstIn := false } := by simp [State.setReset, h]
theorem State.setReset_idle {s : State} (h : s.rstIn = false) : s.setReset false = s := by simp [State.setReset, h]

@[simp] theorem State.setReset_rstIn (s : State) (b : Bool) : (s.setReset b).rstIn = b := by
  cases b <;> cases h : s.rstIn <;> simp [State.setReset, h]
@[simp] theorem State.setReset_params (s : State) (b : Bool) : (s.setReset b).params = s.params := by
  unfold State.setReset; split <;> rfl
@[simp] theorem State.setReset_responses (s : State) (b : Bool) : (s.setReset b).responses = s.responses := by
  unfold State.setReset; split <;> rfl
@[simp] theorem State.setReset_sinkHold (s : State) (b : Bool) : (s.setReset b).sinkHold = s.sinkHold := by
  unfold State.setReset; split <;> rfl
@[simp] theorem State.setReset_rstDraw (s : State) (b : Bool) : (s.setReset b).rstDraw = s.rstDraw := by
  unfold State.setReset; split <;> rfl
@[simp] theorem State.setReset_freeCount (s : State) (b : Bool) : (s.setReset b).freeCount = s.freeCount := by
  unfold State.setReset; split <;> rfl

/-! ### The next index (41_cir_window_extractor.md R149) -/

@[simp] theorem bumpIdx_st (s : State) : (bumpIdx s).st = s.st := by
  unfold bumpIdx; split <;> rfl
@[simp] theorem bumpIdx_status (s : State) : (bumpIdx s).status = s.status := by
  unfold bumpIdx; split <;> rfl
@[simp] theorem bumpIdx_frameLen (s : State) : (bumpIdx s).frameLen = s.frameLen := by
  unfold bumpIdx; split <;> rfl
@[simp] theorem bumpIdx_payLen (s : State) : (bumpIdx s).payLen = s.payLen := by
  unfold bumpIdx; split <;> rfl
@[simp] theorem bumpIdx_buf (s : State) : (bumpIdx s).buf = s.buf := by
  unfold bumpIdx; split <;> rfl
@[simp] theorem bumpIdx_fpRaw (s : State) : (bumpIdx s).fpRaw = s.fpRaw := by
  unfold bumpIdx; split <;> rfl
@[simp] theorem bumpIdx_fp (s : State) : (bumpIdx s).fp = s.fp := by
  unfold bumpIdx; split <;> rfl
@[simp] theorem bumpIdx_winStart (s : State) : (bumpIdx s).winStart = s.winStart := by
  unfold bumpIdx; split <;> rfl
@[simp] theorem bumpIdx_winEnd (s : State) : (bumpIdx s).winEnd = s.winEnd := by
  unfold bumpIdx; split <;> rfl
@[simp] theorem bumpIdx_re (s : State) : (bumpIdx s).re = s.re := by
  unfold bumpIdx; split <;> rfl
@[simp] theorem bumpIdx_im (s : State) : (bumpIdx s).im = s.im := by
  unfold bumpIdx; split <;> rfl
@[simp] theorem bumpIdx_magMilli (s : State) : (bumpIdx s).magMilli = s.magMilli := by
  unfold bumpIdx; split <;> rfl
@[simp] theorem bumpIdx_faultCode (s : State) : (bumpIdx s).faultCode = s.faultCode := by
  unfold bumpIdx; split <;> rfl
@[simp] theorem bumpIdx_faultState (s : State) : (bumpIdx s).faultState = s.faultState := by
  unfold bumpIdx; split <;> rfl
@[simp] theorem bumpIdx_faultIdx (s : State) : (bumpIdx s).faultIdx = s.faultIdx := by
  unfold bumpIdx; split <;> rfl
@[simp] theorem bumpIdx_trace (s : State) : (bumpIdx s).trace = s.trace := by
  unfold bumpIdx; split <;> rfl
@[simp] theorem bumpIdx_responses (s : State) : (bumpIdx s).responses = s.responses := by
  unfold bumpIdx; split <;> rfl
@[simp] theorem bumpIdx_sinkHold (s : State) : (bumpIdx s).sinkHold = s.sinkHold := by
  unfold bumpIdx; split <;> rfl
@[simp] theorem bumpIdx_rstIn (s : State) : (bumpIdx s).rstIn = s.rstIn := by
  unfold bumpIdx; split <;> rfl
@[simp] theorem bumpIdx_rstDraw (s : State) : (bumpIdx s).rstDraw = s.rstDraw := by
  unfold bumpIdx; split <;> rfl
@[simp] theorem bumpIdx_params (s : State) : (bumpIdx s).params = s.params := by
  unfold bumpIdx; split <;> rfl
@[simp] theorem bumpIdx_bench (s : State) : (bumpIdx s).bench = s.bench := by
  unfold bumpIdx; split <;> rfl

theorem bumpIdx_idx (s : State) (h : s.idx.toNat < 2047) : (bumpIdx s).idx.toNat = s.idx.toNat + 1 := by
  have hlt : s.idx.toNat + 1 < 2048 := by omega
  simp only [bumpIdx, if_pos hlt, BitVec.toNat_ofNat]
  omega

theorem bumpIdx_freeCount (s : State) (h : s.idx.toNat < 2047) : (bumpIdx s).freeCount = s.freeCount := by
  have hlt : s.idx.toNat + 1 < 2048 := by omega
  simp only [bumpIdx, if_pos hlt]

/-- Whatever the index, only `idx` and the counter of free values change. -/
theorem bumpIdx_eq (s : State) :
    bumpIdx s = { s with idx := (bumpIdx s).idx, freeCount := (bumpIdx s).freeCount } := by
  unfold bumpIdx; split <;> rfl

end Sys2Proof.Machine
end

