-- ==== Sys2Proof/Laws/Ops.lean ====
section
/-! SUPPORT. What each shared operation can do, said once: the port transaction and the emission, forwards and backwards,
and the request words as the numbers of 30_encoding.md R98. -/

namespace Sys2Proof.Machine

variable {α : Type} {w : BitVec 64} {take : Response → Option α} {c : Code} {s t : State} {k : α → State → Result}

theorem transact_wait (h : s.responses = []) : transact w take c s k = .next s := by
  simp only [transact, h]

theorem transact_fault {rest : List Response} (h : s.responses = .fault :: rest) :
    transact w take c s k = .next ((s.answered w .fault rest).raiseFault c) := by
  simp only [transact, h]

theorem transact_ok {r : Response} {rest : List Response} {a : α} (h : s.responses = r :: rest) (hr : r ≠ .fault)
    (ha : take r = some a) : transact w take c s k = k a (s.answered w r rest) := by
  cases r <;> simp_all [transact]

theorem transact_bad {r : Response} {rest : List Response} (h : s.responses = r :: rest) (hr : r ≠ .fault)
    (ha : take r = none) : transact w take c s k = .refused .badResponse := by
  cases r <;> simp_all [transact]

/-- A transaction answers a next state in three ways: it waits, it faults, or it goes on with the data. -/
theorem transact_next (h : transact w take c s k = .next t) :
    (s.responses = [] ∧ t = s)
    ∨ (∃ rest, s.responses = .fault :: rest ∧ t = (s.answered w .fault rest).raiseFault c)
    ∨ ∃ r rest a, s.responses = r :: rest ∧ r ≠ .fault ∧ take r = some a ∧ k a (s.answered w r rest) = .next t := by
  cases hr : s.responses with
  | nil =>
    rw [transact_wait hr] at h
    exact Or.inl ⟨rfl, (Host.Outcome.next.inj h).symm⟩
  | cons r rest =>
    by_cases hf : r = .fault
    · subst hf
      rw [transact_fault hr] at h
      exact Or.inr (Or.inl ⟨rest, rfl, (Host.Outcome.next.inj h).symm⟩)
    · cases ha : take r with
      | none => rw [transact_bad hr hf ha] at h; nomatch h
      | some a =>
        rw [transact_ok hr hf ha] at h
        exact Or.inr (Or.inr ⟨r, rest, a, rfl, hf, ha, h⟩)

theorem emit_hold {bs : List Byte} {f : State → Result} (h : s.sinkHold = true) : emit bs s f = .next s := by
  simp only [emit, h, if_true]

theorem emit_free {bs : List Byte} {f : State → Result} (h : s.sinkHold = false) :
    emit bs s f = f { s with trace := s.trace ++ [.line bs] } := by
  simp only [emit, h, Bool.false_eq_true, if_false]

/-- An emission answers a next state in two ways: it waits for the sink, or the line is out. -/
theorem emit_next {bs : List Byte} {f : State → Result} (h : emit bs s f = .next t) :
    (s.sinkHold = true ∧ t = s) ∨ (s.sinkHold = false ∧ f { s with trace := s.trace ++ [.line bs] } = .next t) := by
  by_cases hh : s.sinkHold = true
  · rw [emit_hold hh] at h; exact Or.inl ⟨hh, (Host.Outcome.next.inj h).symm⟩
  · have hf := Bool.eq_false_iff.2 hh
    rw [emit_free hf] at h; exact Or.inr ⟨hf, h⟩

theorem requestAlone_wait (h : s.responses = []) : requestAlone w take c s = .next s := by
  simp only [requestAlone, h, List.isEmpty_nil, if_true]

theorem requestAlone_fault {rest : List Response} (h : s.responses = .fault :: rest) :
    requestAlone w take c s = .next ((s.taken.answered w .fault rest).raiseFault c) := by
  simp only [requestAlone, h, List.isEmpty_cons, Bool.false_eq_true, if_false]
  exact transact_fault h

theorem requestAlone_ok {r : Response} {rest : List Response} {a : α} (h : s.responses = r :: rest) (hr : r ≠ .fault)
    (ha : take r = some a) : requestAlone w take c s = .next (s.taken.answered w r rest) := by
  simp only [requestAlone, h, List.isEmpty_cons, Bool.false_eq_true, if_false]
  exact transact_ok h hr ha

theorem lineAlone_hold {bs : List Byte} (h : s.sinkHold = true) : lineAlone bs s = .next s := by
  simp only [lineAlone, h, if_true]

theorem lineAlone_free {bs : List Byte} (h : s.sinkHold = false) :
    lineAlone bs s = .next { s.taken with trace := s.trace ++ [.line bs] } := by
  simp only [lineAlone, h, Bool.false_eq_true, if_false]
  exact emit_free h

/-! ### The data of a response (30_encoding.md R99) -/

theorem takeAck_eq {r : Response} {a : Unit} (h : takeAck r = some a) : r = .ack := by
  cases r <;> simp_all [takeAck]

theorem takeWord_eq {r : Response} {v : Word32} (h : takeWord r = some v) : r = .word v := by
  cases r <;> simp_all [takeWord]

theorem takeBytes_eq {r : Response} {n : Nat} {bs : List Byte} (h : takeBytes n r = some bs) :
    r = .bytes bs ∧ bs.length = n := by
  cases r with
  | bytes cs =>
    simp only [takeBytes] at h
    split at h
    · next hl => cases h; exact ⟨rfl, hl⟩
    · nomatch h
  | ack | word _ | diag _ _ | fault => nomatch h

theorem takeDiag_eq {r : Response} {f : BitVec 16} (h : takeDiag r = some f) : ∃ other, r = .diag f other := by
  cases r <;> simp_all [takeDiag]

theorem takeRecord_eq {r : Response} {q : Record} (h : takeRecord r = some q) : r = Safety.recordResponse q := by
  unfold takeRecord at h
  split at h
  · cases h; rfl
  · nomatch h

theorem takeRecord_recordResponse (q : Record) : takeRecord (Safety.recordResponse q) = some q := rfl

/-! ### Each kind of answer to a transaction -/

variable {rest : List Response}

theorem transact_ack {k : Unit → State → Result} (h : s.responses = .ack :: rest) :
    transact w takeAck c s k = k () (s.answered w .ack rest) := transact_ok h Response.noConfusion rfl

theorem transact_word {v : Word32} {k : Word32 → State → Result} (h : s.responses = .word v :: rest) :
    transact w takeWord c s k = k v (s.answered w (.word v) rest) := transact_ok h Response.noConfusion rfl

theorem transact_bytes {n : Nat} {bs : List Byte} {k : List Byte → State → Result}
    (h : s.responses = .bytes bs :: rest) (hn : bs.length = n) :
    transact w (takeBytes n) c s k = k bs (s.answered w (.bytes bs) rest) :=
  transact_ok h Response.noConfusion (by rw [takeBytes, if_pos hn])

theorem transact_diag {f : BitVec 16} {other : List Byte} {k : BitVec 16 → State → Result}
    (h : s.responses = .diag f other :: rest) :
    transact w takeDiag c s k = k f (s.answered w (.diag f other) rest) := transact_ok h Response.noConfusion rfl

theorem transact_record {q : Record} {k : Record → State → Result}
    (h : s.responses = Safety.recordResponse q :: rest) :
    transact w takeRecord c s k = k q (s.answered w (Safety.recordResponse q) rest) :=
  transact_ok h Response.noConfusion rfl

/-! ### The request words as numbers (30_encoding.md R95, R98) -/

theorem requestWord_toNat (op rid : Code) (a : BitVec 16) (b : Word32) :
    (requestWord op rid a b).toNat = op.toNat * 2 ^ 60 + rid.toNat * 2 ^ 56 + a.toNat * 2 ^ 32 + b.toNat := by
  have ho := op.isLt; have hr := rid.isLt; have ha := a.isLt; have hb := b.isLt
  have h0 : (0 : Byte).toNat = 0 := rfl
  simp only [requestWord, BitVec.toNat_append]
  rw [← Nat.shiftLeft_add_eq_or_of_lt hb, ← Nat.shiftLeft_add_eq_or_of_lt ha,
    ← Nat.shiftLeft_add_eq_or_of_lt (by decide), ← Nat.shiftLeft_add_eq_or_of_lt hr]
  simp only [Nat.shiftLeft_eq, h0]
  omega

theorem rxDataWord_eq (n : BitVec 16) : rxDataWord n = Safety.rxDataWordOf n.toNat := by
  have hn := n.isLt
  apply BitVec.eq_of_toNat_eq
  have h4 : (0x4 : Code).toNat = 4 := rfl
  have h0 : (0 : Code).toNat = 0 := rfl
  have hb : (0 : Word32).toNat = 0 := rfl
  simp only [rxDataWord, requestWord_toNat, Safety.rxDataWordOf, BitVec.toNat_ofNat, h4, h0, hb]
  omega

theorem accWord_eq (i : BitVec 10) : accWord i = Safety.accWordOf i.toNat := by
  have hi := i.isLt
  apply BitVec.eq_of_toNat_eq
  have h5 : (0x5 : Code).toNat = 5 := rfl
  have h0 : (0 : Code).toNat = 0 := rfl
  have hb : (0 : Word32).toNat = 0 := rfl
  simp only [accWord, requestWord_toNat, Safety.accWordOf, BitVec.toNat_ofNat, BitVec.toNat_setWidth, h5, h0, hb]
  omega

theorem clearWord_eq (m : Word32) : clearWord m = Safety.clearWordOf m := by
  have hm := m.isLt
  apply BitVec.eq_of_toNat_eq
  have h3 : (0x3 : Code).toNat = 3 := rfl
  have h0 : Config.ridStatus.toNat = 0 := rfl
  have ha : (0 : BitVec 16).toNat = 0 := rfl
  simp only [clearWord, requestWord_toNat, Safety.clearWordOf, BitVec.toNat_ofNat, h3, h0, ha]
  omega

theorem idxLow_toNat (s : State) : (idxLow s).toNat = s.idx.toNat % 1024 := by
  simp only [idxLow, BitVec.extractLsb'_toNat, Nat.shiftRight_zero]

/-- The LEN of a length that a request word can carry (43_receive_state_machine.md R197). -/
theorem payloadLen_eq {f : Word32} {n : Nat} (h : f.toNat = n + 2) (h1 : 1 ≤ n) (h2 : n < 65536) :
    payloadLen f = some (BitVec.ofNat 16 n) := by
  simp only [payloadLen, Config.trailerLen, h]
  rw [if_pos (by omega)]
  simp

theorem payloadLen_some {f : Word32} {n : BitVec 16} (h : payloadLen f = some n) :
    f.toNat = n.toNat + 2 ∧ 1 ≤ n.toNat := by
  unfold payloadLen at h
  split at h
  · next hc =>
    obtain rfl := Option.some.inj h
    simp only [BitVec.toNat_ofNat, Config.trailerLen] at hc ⊢
    omega
  · nomatch h

end Sys2Proof.Machine
end

