-- ==== Sys2Proof/Laws/Step.lean ====
section
/-! SUPPORT. What a step is, in terms of reset, FAULTED and the operation `st` selects. -/

namespace Sys2Proof.Machine

variable {s t : State}

theorem step_reset (hp : s.params.wf = true) (hr : s.rstIn = true) : step s = .next s.applyReset := by
  simp only [step, fetch, hp, hr, Bool.true_eq_false, if_false, if_true]

theorem step_faulted (hp : s.params.wf = true) (hr : s.rstIn = false) (h : s.st = 0xD) : step s = .next s := by
  simp only [step, fetch, hp, hr, if_pos h, Bool.true_eq_false, Bool.false_eq_true, if_false]
  rfl

/-- The block's own step is the operation of its state code (10_state.md R21). -/
theorem step_running (h : Safety.Running s) : step s = exec (decodeCode s.st) s := by
  obtain ⟨hp, hr, hb⟩ := h
  by_cases hd : s.st = 0xD
  · rw [step_faulted hp hr hd, hd]; rfl
  · simp only [step, fetch, hp, hr, hb, if_neg hd, Bool.true_eq_false, Bool.false_eq_true, if_false, List.isEmpty_nil,
      if_true]

/-- A word at the boundary runs as the row it decodes to (log 7). -/
theorem step_bench {i : Instr} (hp : s.params.wf = true) (hr : s.rstIn = false) (hd : s.st ≠ 0xD)
    (hb : s.bench ≠ []) (hi : decodeBoundary s.bench = .ok i) : step s = exec i s := by
  have he : s.bench.isEmpty = false := by simpa using hb
  simp only [step, fetch, hp, hr, he, if_neg hd, hi, Bool.true_eq_false, Bool.false_eq_true, if_false]

/-- A step that answers a next state had legal parameters. -/
theorem step_params (h : step s = .next t) : s.params.wf = true := by
  by_contra hp
  simp only [step, fetch, Bool.eq_false_iff.2 hp, if_true] at h
  nomatch h

/-- A step of the block answers a next state in these ways, by its state code. -/
theorem step_next_cases (h : Safety.Running s) (ht : step s = .next t) :
    (s.st = 0x0 ∧ execSArmClear s = .next t) ∨ (s.st = 0x1 ∧ execSArmReq s = .next t)
    ∨ (s.st = 0x2 ∧ execSPoll s = .next t) ∨ (s.st = 0x3 ∧ execSGoodLen s = .next t)
    ∨ (s.st = 0x4 ∧ execSGoodCopy s = .next t) ∨ (s.st = 0x5 ∧ execSGoodDiag s = .next t)
    ∨ (s.st = 0x6 ∧ execSRepMeta s = .next t) ∨ (s.st = 0x7 ∧ execSRepBegin s = .next t)
    ∨ (s.st = 0x8 ∧ execSExtRead s = .next t) ∨ (s.st = 0x9 ∧ execSExtEmit s = .next t)
    ∨ (s.st = 0xA ∧ execSRepEnd s = .next t) ∨ (s.st = 0xB ∧ execSGoodClr s = .next t)
    ∨ (s.st = 0xC ∧ execSErrClr s = .next t) ∨ (s.st = 0xD ∧ t = s)
    ∨ (0xE ≤ s.st.toNat ∧ t = s.raiseFault fBadState) := by
  rw [step_running h] at ht
  have hall : ∀ c : Code, c = 0x0 ∨ c = 0x1 ∨ c = 0x2 ∨ c = 0x3 ∨ c = 0x4 ∨ c = 0x5 ∨ c = 0x6 ∨ c = 0x7 ∨ c = 0x8
      ∨ c = 0x9 ∨ c = 0xA ∨ c = 0xB ∨ c = 0xC ∨ c = 0xD ∨ c = 0xE ∨ c = 0xF := by decide
  rcases hall s.st with h | h | h | h | h | h | h | h | h | h | h | h | h | h | h | h <;> rw [h] at ht
  · exact Or.inl ⟨h, ht⟩
  · exact Or.inr <| Or.inl ⟨h, ht⟩
  · exact Or.inr <| Or.inr <| Or.inl ⟨h, ht⟩
  · exact Or.inr <| Or.inr <| Or.inr <| Or.inl ⟨h, ht⟩
  · exact Or.inr <| Or.inr <| Or.inr <| Or.inr <| Or.inl ⟨h, ht⟩
  · exact Or.inr <| Or.inr <| Or.inr <| Or.inr <| Or.inr <| Or.inl ⟨h, ht⟩
  · exact Or.inr <| Or.inr <| Or.inr <| Or.inr <| Or.inr <| Or.inr <| Or.inl ⟨h, ht⟩
  · exact Or.inr <| Or.inr <| Or.inr <| Or.inr <| Or.inr <| Or.inr <| Or.inr <| Or.inl ⟨h, ht⟩
  · exact Or.inr <| Or.inr <| Or.inr <| Or.inr <| Or.inr <| Or.inr <| Or.inr <| Or.inr <| Or.inl ⟨h, ht⟩
  · exact Or.inr <| Or.inr <| Or.inr <| Or.inr <| Or.inr <| Or.inr <| Or.inr <| Or.inr <| Or.inr <| Or.inl ⟨h, ht⟩
  · exact Or.inr <| Or.inr <| Or.inr <| Or.inr <| Or.inr <| Or.inr <| Or.inr <| Or.inr <| Or.inr <| Or.inr <| Or.inl ⟨h, ht⟩
  · exact Or.inr <| Or.inr <| Or.inr <| Or.inr <| Or.inr <| Or.inr <| Or.inr <| Or.inr <| Or.inr <| Or.inr <| Or.inr <| Or.inl ⟨h, ht⟩
  · exact Or.inr <| Or.inr <| Or.inr <| Or.inr <| Or.inr <| Or.inr <| Or.inr <| Or.inr <| Or.inr <| Or.inr <| Or.inr <| Or.inr <| Or.inl ⟨h, ht⟩
  · exact Or.inr <| Or.inr <| Or.inr <| Or.inr <| Or.inr <| Or.inr <| Or.inr <| Or.inr <| Or.inr <| Or.inr <| Or.inr <| Or.inr <| Or.inr <| Or.inl ⟨h, (Host.Outcome.next.inj ht).symm⟩
  · exact Or.inr <| Or.inr <| Or.inr <| Or.inr <| Or.inr <| Or.inr <| Or.inr <| Or.inr <| Or.inr <| Or.inr <| Or.inr <| Or.inr <| Or.inr <| Or.inr ⟨by rw [h]; decide, (Host.Outcome.next.inj ht).symm⟩
  · exact Or.inr <| Or.inr <| Or.inr <| Or.inr <| Or.inr <| Or.inr <| Or.inr <| Or.inr <| Or.inr <| Or.inr <| Or.inr <| Or.inr <| Or.inr <| Or.inr ⟨by rw [h]; decide, (Host.Outcome.next.inj ht).symm⟩

/-- A run splits into its parts. -/
theorem run_add (m n : Nat) (s t : State) (h : Host.Core.run core m s = .next t) :
    Host.Core.run core (m + n) s = Host.Core.run core n t := by
  induction m generalizing s with
  | zero =>
    rw [Nat.zero_add]
    exact congrArg _ (Host.Outcome.next.inj h)
  | succ m ih =>
    rw [Nat.succ_add]
    simp only [Host.Core.run] at h ⊢
    cases hs : core.step s with
    | next u => rw [hs] at h; exact ih u h
    | fault f => rw [hs] at h; nomatch h
    | refused r => rw [hs] at h; nomatch h

/-- One step, then the rest of a run. -/
theorem run_succ {n : Nat} {u : State} (h : step s = .next u) :
    Host.Core.run core (n + 1) s = Host.Core.run core n u := by
  have h' : core.step s = .next u := h
  simp only [Host.Core.run, h']

end Sys2Proof.Machine
end

