-- ==== Sys2Proof/Tests/Slice0.lean ====
section
/-! SUPPORT. Tests. Expected values come from spec/95_test_vectors.md (the vector's name is in the comment), from an
example in a rule, or from an encoding of 30_encoding.md written out by hand. Then the witnesses: for every statement with
hypotheses, concrete states and operands that meet them. -/

namespace Sys2Proof.Tests

open Sys2Proof.Machine Sys2Proof.Safety

/-! ## Well-formedness: an ill-formed term for each check -/

/-- 30_encoding.md R101. -/
theorem test_wf_refuses_len_zero : (Instr.readRxData 0).wf = false ∧ (Instr.readRxData 1).wf = true := by decide

/-- R94: 185363.800 is the largest printed magnitude. -/
theorem test_wf_refuses_large_magnitude :
    (Instr.tlmCir 0 0 0 185363801).wf = false ∧ (Instr.tlmCir 0 0 0 185363800).wf = true := by decide

/-- 00_scope.md R9, 20_memory.md R52: zero masks, overlapping masks, a length mask with a gap, of no bit or of 17 bits, and
a receive memory of 124 bytes. -/
theorem test_wf_refuses_parameters :
    ({ exampleParams with goodMask := 0 } : Config.Params).wf = false
    ∧ ({ exampleParams with errMask := 0 } : Config.Params).wf = false
    ∧ ({ exampleParams with errMask := 0x4000 } : Config.Params).wf = false
    ∧ ({ exampleParams with rxlenMask := 0x3FE } : Config.Params).wf = false
    ∧ ({ exampleParams with rxlenMask := 0 } : Config.Params).wf = false
    ∧ ({ exampleParams with rxlenMask := 0x1FFFF } : Config.Params).wf = false
    ∧ ({ exampleParams with rxmemSize := 124 } : Config.Params).wf = false := by decide

/-! ## Decoding: every row from a word written out from its encoding -/

/-- 10_state.md R21. -/
theorem test_decode_codes :
    decode [0x00] = .ok .sArmClear ∧ decode [0x01] = .ok .sArmReq ∧ decode [0x02] = .ok .sPoll
    ∧ decode [0x03] = .ok .sGoodLen ∧ decode [0x04] = .ok .sGoodCopy ∧ decode [0x05] = .ok .sGoodDiag
    ∧ decode [0x06] = .ok .sRepMeta ∧ decode [0x07] = .ok .sRepBegin ∧ decode [0x08] = .ok .sExtRead
    ∧ decode [0x09] = .ok .sExtEmit ∧ decode [0x0A] = .ok .sRepEnd ∧ decode [0x0B] = .ok .sGoodClr
    ∧ decode [0x0C] = .ok .sErrClr ∧ decode [0x0D] = .ok .sFault ∧ decode [0x0E] = .ok (.sReserved 0)
    ∧ decode [0x0F] = .ok (.sReserved 1) ∧ decode [0x10] = .error .codeTooWide := by decide

/-- 30_encoding.md R98; Q1 to Q11: the bytes of the words, lowest first. -/
theorem test_decode_requests :
    decode [0, 0, 0, 0, 0, 0, 0, 0x10] = .ok .armRx
    ∧ decode [0, 0, 0, 0, 0, 0, 0, 0x20] = .ok .readReg32Status
    ∧ decode [0, 0, 0, 0, 0, 0, 0, 0x21] = .ok .readReg32Rxinfo
    ∧ decode [0, 0x90, 0, 0, 0, 0, 0, 0x30] = .ok (.writeClear32 0x9000)
    ∧ decode [0, 0, 0, 0, 0x7D, 0, 0, 0x40] = .ok (.readRxData 125)
    ∧ decode [0, 0, 0, 0, 0xFF, 0x03, 0, 0x50] = .ok (.readAcc 1023)
    ∧ decode [0, 0, 0, 0, 0, 0, 0, 0x60] = .ok .readDiag := by decide

/-- R101: reserved words, each refused by name. -/
theorem test_decode_refuses :
    decode [0, 0, 0, 0, 0, 0, 0, 0x00] = .error .reservedOp ∧ decode [0, 0, 0, 0, 0, 0, 0, 0x70] = .error .reservedOp
    ∧ decode [0, 0, 0, 0, 0, 0, 0, 0x22] = .error .reservedRid
    ∧ decode [0, 0, 0, 0, 0, 0, 0, 0x31] = .error .reservedRid
    ∧ decode [0, 0, 0, 0, 0, 0, 0, 0x51] = .error .strayRid
    ∧ decode [0, 0, 0, 0, 0, 0, 1, 0x10] = .error .reservedField
    ∧ decode [0, 0, 0, 0, 1, 0, 0, 0x10] = .error .strayField
    ∧ decode [0, 0, 0, 0, 0, 0, 0, 0x40] = .error .zeroLen
    ∧ decode [0, 0, 0, 0, 0x00, 0x04, 0, 0x50] = .error .indexRange
    ∧ decode [0, 0] = .error .badLength := by decide

/-- 95_test_vectors.md 2.4, the byte dumps. -/
theorem test_decode_markers :
    decode [0x46, 0x52, 0x41, 0x4D, 0x45, 0x5F, 0x42, 0x45, 0x47, 0x49, 0x4E, 0x0D, 0x0A] = .ok .tlmFrameBegin
    ∧ decode [0x46, 0x52, 0x41, 0x4D, 0x45, 0x5F, 0x45, 0x4E, 0x44, 0x0D, 0x0A] = .ok .tlmFrameEnd := by decide

/-- 2.4, the byte dump of L1. -/
theorem test_decode_meta :
    decode [0x43, 0x49, 0x52, 0x5F, 0x4D, 0x45, 0x54, 0x41, 0x2C, 0x46, 0x50, 0x3D, 0x30, 0x2C, 0x53, 0x54, 0x41, 0x52,
      0x54, 0x3D, 0x30, 0x2C, 0x45, 0x4E, 0x44, 0x3D, 0x35, 0x30, 0x0D, 0x0A] = .ok (.tlmCirMeta 0 0 50) := by decide

/-- 2.4, the byte dump of L9. -/
theorem test_decode_cir :
    decode [0x43, 0x49, 0x52, 0x2C, 0x31, 0x30, 0x30, 0x2C, 0x33, 0x2C, 0x34, 0x2C, 0x35, 0x2E, 0x30, 0x30, 0x30, 0x0D,
      0x0A] = .ok (.tlmCir 100 3 4 5000) := by decide

/-- R88: `CIR,0100,...` has a leading zero, so it is no line. -/
theorem test_decode_refuses_leading_zero :
    decode [0x43, 0x49, 0x52, 0x2C, 0x30, 0x31, 0x30, 0x30, 0x2C, 0x33, 0x2C, 0x34, 0x2C, 0x35, 0x2E, 0x30, 0x30, 0x30,
      0x0D, 0x0A] = .error .notALine := by decide

/-- DEC8 as the word of R81. -/
theorem test_decode_record : decode [0xA5, 0x39, 0x30, 0x00, 0x7B, 0xE5, 0x03] = .ok (.accRecord 0x03E57B003039A5) := by
  decide

/-- The longest line, L7, survives the round trip. -/
theorem test_encode_longest_line :
    let i := Instr.tlmCir 1023 (BitVec.ofInt 18 (-131072)) (BitVec.ofInt 18 (-131072)) 185363800
    decode (encode i) = .ok i ∧ (encode i).length = 37 := by decide

/-! ## The pure functions -/

/-- DEC3, DEC4, DEC7, DEC8 and DEC10. -/
theorem test_decodeSample :
    decodeSample ⟨0x00, 0x00, 0x00, 0x02, 0x00, 0x00, 0x02⟩ = (-131072, -131072)
    ∧ decodeSample ⟨0x00, 0xFF, 0xFF, 0x01, 0xFF, 0xFF, 0x01⟩ = (131071, 131071)
    ∧ decodeSample ⟨0xFF, 0x03, 0x00, 0xFC, 0x04, 0x00, 0xFC⟩ = (3, 4)
    ∧ decodeSample ⟨0xA5, 0x39, 0x30, 0x00, 0x7B, 0xE5, 0x03⟩ = (12345, -6789)
    ∧ decodeSample ⟨0x00, 0xFF, 0xFF, 0xFF, 0xFF, 0xFF, 0xFF⟩ = (-1, -1) := by decide

/-- M2, M5, M7, M14, M15, M16 and M17. -/
theorem test_magnitude :
    magOf 0 0 = 0 ∧ magOf 1 1 = 1414 ∧ magOf 2 3 = 3606 ∧ magOf 12345 (-6789) = 14088632
    ∧ magOf (-131072) (-131072) = 185363800 ∧ magOf 131071 131071 = 185362386
    ∧ magOf 131071 (-131072) = 185363093 := by decide

/-- W5, W6, W7, W8, W9, W10, W11, W12: `fp`, `win_start`, `win_end`. -/
theorem test_window :
    let f := fun raw => ((substFp raw).toNat, (windowStart (substFp raw)).toNat, (windowEnd (substFp raw)).toNat)
    f 0 = (0, 0, 50) ∧ f 9 = (9, 0, 59) ∧ f 10 = (10, 0, 60) ∧ f 973 = (973, 963, 1023) ∧ f 974 = (974, 964, 1023)
    ∧ f 1023 = (1023, 1013, 1023) ∧ f 1024 = (0, 0, 50) ∧ f 65535 = (0, 0, 50) := by decide

/-- T1 to T11. -/
theorem test_spelling :
    udec 0 = [0x30] ∧ udec 1023 = [0x31, 0x30, 0x32, 0x33] ∧ sdec (-1) = [0x2D, 0x31]
    ∧ sdec (-131072) = [0x2D, 0x31, 0x33, 0x31, 0x30, 0x37, 0x32] ∧ mdec 50 = [0x30, 0x2E, 0x30, 0x35, 0x30]
    ∧ mdec 185363800 = [0x31, 0x38, 0x35, 0x33, 0x36, 0x33, 0x2E, 0x38, 0x30, 0x30] := by decide

/-- CLS5, CLS7 and CLS9. -/
theorem test_class :
    classOf exampleParams 0x0000D000 = .good ∧ classOf exampleParams 0xFFFF2FFF = .pending
    ∧ classOf exampleParams 0x00009000 = .error := by decide

/-! ## One step of each operation -/

/-- A state of the block with a state code and the responses to come. -/
def here (st : Code) (rs : List Response) : State := { State.reset with st := st, responses := rs }

/-- What is seen of a next state. -/
def seen {α : Type} (r : Result) (f : State → α) : Option α :=
  match r with
  | .next t => some (f t)
  | .fault _ => none
  | .refused _ => none

/-- The fault record with `st`: `fault_code`, `fault_state`, `fault_idx`, `st`. -/
def record (t : State) : Code × Code × BitVec 10 × Code := (t.faultCode, t.faultState, t.faultIdx, t.st)

/-- 95_test_vectors.md 2.10: after the first step. -/
theorem test_armClear : seen (step (here 0x0 [])) (fun t =>
    (t.st, t.payLen, Memory.read t.buf 0, Memory.read t.buf 126, Memory.read t.buf 127)) =
    some (0x1, 0, some 0, some 0, none) := by decide

/-- S2. -/
theorem test_armReq : seen (step (here 0x1 [.ack])) (fun t => (t.st, t.trace)) =
    some (0x2, [.request 0x1000000000000000 .ack]) := by decide

/-- X1. -/
theorem test_armReq_fault : seen (step (here 0x1 [.fault])) record = some (0x1, 0x1, 0, 0xD) := by decide

/-- CLS6: frame-good wins. -/
theorem test_poll : seen (step (here 0x2 [.word 0x00005000])) (fun t => (t.st, t.status)) = some (0x3, 0x00005000) := by
  decide

/-- X2. -/
theorem test_poll_fault : seen (step (here 0x2 [.fault])) (fun t => (record t, t.status)) =
    some ((0x2, 0x2, 0, 0xD), powerOn.status) := by decide

/-- LEN7 and LEN8: the capacity and one more. -/
theorem test_goodLen : seen (step (here 0x3 [.word 0x7F])) (fun t => t.st) = some 0x4
    ∧ seen (step (here 0x3 [.word 0x80])) (fun t => t.st) = some 0x5 := by decide

/-- LEN11: bits above the mask are ignored. -/
theorem test_goodLen_mask : seen (step (here 0x3 [.word 0xFFFFFC0C])) (fun t => (t.frameLen, t.st)) = some (12, 0x4) := by
  decide

/-- R197's example with three payload bytes: bytes past the payload keep their value, `pay_len` and the word (LEN4's form). -/
theorem test_goodCopy : seen (step { here 0x4 [.bytes [7, 8, 9]] with frameLen := 5, buf := [(2, 1), (3, 5)] })
    (fun t => (t.buf, t.payLen, t.st, t.trace)) =
    some ([(0, 7), (1, 8), (2, 9), (3, 5)], 3, 0x5, [.request 0x4000000300000000 (.bytes [7, 8, 9])]) := by decide

/-- X4: no byte is written. -/
theorem test_goodCopy_fault : seen (step { here 0x4 [.fault] with frameLen := 12, payLen := 0, buf := [(0, 0)] })
    (fun t => (record t, t.buf, t.payLen)) = some ((0x4, 0x4, 0, 0xD), [(0, 0)], 0) := by decide

/-- W9; the snapshot's other fields are ignored (20_memory.md R54). -/
theorem test_goodDiag : seen (step (here 0x5 [.diag 974 [1, 2]])) (fun t => (t.fpRaw, t.fp, t.winStart, t.winEnd, t.st)) =
    some (974, 974, 964, 1023, 0x6) := by decide

/-- W4: 2000 is substituted, and kept in `fp_raw`. -/
theorem test_goodDiag_substitutes : seen (step (here 0x5 [.diag 2000 []])) (fun t => (t.fpRaw, t.fp, t.winEnd)) =
    some (2000, 0, 50) := by decide

/-- R171's corner case: `CIR_META,FP=0,START=0,END=50` (L1). -/
theorem test_repMeta : seen (step { here 0x6 [] with fp := 0, winStart := 0, winEnd := 50 }) (fun t => (t.st, t.telemetry)) =
    some (0x7, [0x43, 0x49, 0x52, 0x5F, 0x4D, 0x45, 0x54, 0x41, 0x2C, 0x46, 0x50, 0x3D, 0x30, 0x2C, 0x53, 0x54, 0x41,
      0x52, 0x54, 0x3D, 0x30, 0x2C, 0x45, 0x4E, 0x44, 0x3D, 0x35, 0x30, 0x0D, 0x0A]) := by decide

/-- R172's example. -/
theorem test_repBegin : seen (step { here 0x7 [] with winStart := 90, winEnd := 150 }) (fun t => (t.idx, t.st)) =
    some (90, 0x8) := by decide

/-- S12: an empty window. -/
theorem test_repBegin_empty : seen (step { here 0x7 [] with winStart := 150, winEnd := 149 }) (fun t => t.st) =
    some 0xA := by decide

/-- R148's example. -/
theorem test_extRead : seen (step { here 0x8 [.bytes [0, 3, 0, 0, 4, 0, 0]] with idx := 100 })
    (fun t => (t.re, t.im, t.magMilli, t.st, t.trace)) =
    some (3, 4, 5000, 0x9, [.request 0x5000006400000000 (.bytes [0, 3, 0, 0, 4, 0, 0])]) := by decide

/-- X6. -/
theorem test_extRead_fault : seen (step { here 0x8 [.fault] with idx := 1012 }) record = some (0x6, 0x8, 1012, 0xD) := by
  decide

/-- R149's example: `CIR,100,3,4,5.000` (L9). -/
theorem test_extEmit : seen (step { here 0x9 [] with idx := 100, re := 3, im := 4, magMilli := 5000, winEnd := 150 })
    (fun t => (t.telemetry, t.idx, t.st)) =
    some ([0x43, 0x49, 0x52, 0x2C, 0x31, 0x30, 0x30, 0x2C, 0x33, 0x2C, 0x34, 0x2C, 0x35, 0x2E, 0x30, 0x30, 0x30, 0x0D, 0x0A],
      101, 0x8) := by decide

/-- R149's corner case: at 1023 the index becomes 1024. -/
theorem test_extEmit_last : seen (step { here 0x9 [] with idx := 1023, winEnd := 1023 }) (fun t => (t.idx, t.st)) =
    some (1024, 0xA) := by decide

/-- R173's example. -/
theorem test_repEnd : seen (step (here 0xA [])) (fun t => (t.st, t.telemetry)) =
    some (0xB, [0x46, 0x52, 0x41, 0x4D, 0x45, 0x5F, 0x45, 0x4E, 0x44, 0x0D, 0x0A]) := by decide

/-- 20_memory.md R68: the sink holds. -/
theorem test_repEnd_holds : seen (step ((here 0xA []).setSinkHold true)) id = some ((here 0xA []).setSinkHold true) := by
  decide

/-- R199's example (Q4). -/
theorem test_goodClr : seen (step (here 0xB [.ack])) (fun t => (t.st, t.trace)) =
    some (0x0, [.request 0x3000000000004000 .ack]) := by decide

/-- X7. -/
theorem test_goodClr_fault : seen (step (here 0xB [.fault])) record = some (0x7, 0xB, 0, 0xD) := by decide

/-- R200's example (Q5). -/
theorem test_errClr : seen (step (here 0xC [.ack])) (fun t => (t.st, t.trace)) =
    some (0x0, [.request 0x3000000000009000 .ack]) := by decide

/-- X8. -/
theorem test_errClr_fault : seen (step (here 0xC [.fault])) record = some (0x8, 0xC, 0, 0xD) := by decide

/-- R234: nothing happens, though a response is there. -/
theorem test_fault_holds : seen (step (here 0xD [.ack])) id = some (here 0xD [.ack]) ∧ (here 0xD []).faultO = true := by
  decide

/-- 95_test_vectors.md 2.10: a reset from S_FAULT loses the fault record; the draw fills the unspecified registers. -/
theorem test_reset_from_fault :
    seen (step { here 0xD [.ack] with faultCode := 6, faultState := 8, faultIdx := 95, rstIn := true })
      (fun t => (record t, t.responses)) = some ((0, 0, 0, 0), [.ack]) := by decide

/-- X9 and X10. -/
theorem test_reserved : seen (step (here 0xE [])) record = some (0x9, 0xE, 0, 0xD)
    ∧ seen (step (here 0xF [])) record = some (0x9, 0xF, 0, 0xD) := by decide

/-- 30_encoding.md R98, R99: each request word presented alone, as the first step after reset. -/
theorem test_requests_alone :
    seen (step ((here 0x0 [.ack]).withFetchWord 64 0x1000000000000000)) (fun t => (t.trace, t.bench)) =
      some ([.request 0x1000000000000000 .ack], [])
    ∧ seen (step ((here 0x0 [.word 5]).withFetchWord 64 0x2000000000000000)) (fun t => t.trace) =
      some [.request 0x2000000000000000 (.word 5)]
    ∧ seen (step ((here 0x0 [.word 5]).withFetchWord 64 0x2100000000000000)) (fun t => t.trace) =
      some [.request 0x2100000000000000 (.word 5)]
    ∧ seen (step ((here 0x0 [.ack]).withFetchWord 64 0x3000000000009000)) (fun t => t.trace) =
      some [.request 0x3000000000009000 .ack]
    ∧ seen (step ((here 0x0 [.bytes [9]]).withFetchWord 64 0x4000000100000000)) (fun t => t.trace) =
      some [.request 0x4000000100000000 (.bytes [9])]
    ∧ seen (step ((here 0x0 [.bytes [0, 0, 0, 0, 0, 0, 0]]).withFetchWord 64 0x500003FF00000000)) (fun t => t.trace) =
      some [.request 0x500003FF00000000 (.bytes [0, 0, 0, 0, 0, 0, 0])]
    ∧ seen (step ((here 0x0 [.diag 7 []]).withFetchWord 64 0x6000000000000000)) (fun t => t.trace) =
      some [.request 0x6000000000000000 (.diag 7 [])] := by decide

/-- 60_exceptions.md R231: the codes of the requests presented alone. -/
theorem test_requests_alone_fault :
    seen (exec .armRx (here 0x0 [.fault])) record = some (0x1, 0x0, 0, 0xD)
    ∧ seen (exec (.readRxData 4) (here 0x0 [.fault])) record = some (0x4, 0x0, 0, 0xD)
    ∧ seen (exec (.readAcc 95) { here 0x8 [.fault] with idx := 95 }) record = some (0x6, 0x8, 95, 0xD)
    ∧ seen (exec (.writeClear32 0x4000) (here 0xB [.fault])) record = some (0x7, 0xB, 0, 0xD)
    ∧ seen (exec (.writeClear32 0x9000) (here 0xC [.fault])) record = some (0x8, 0xC, 0, 0xD) := by decide

/-- 95_test_vectors.md 2.4: the bytes each line row emits. -/
theorem test_lines_alone :
    seen (exec (.tlmCirMeta 1010 1000 1023) (here 0x0 [])) (fun t => t.telemetry.length) = some 38
    ∧ seen (exec .tlmFrameBegin (here 0x0 [])) (fun t => t.telemetry.length) = some 13
    ∧ seen (exec .tlmFrameEnd (here 0x0 [])) (fun t => t.telemetry.length) = some 11
    ∧ seen (exec (.tlmCir 10 (BitVec.ofInt 18 (-131072)) 0 131072000) (here 0x0 [])) (fun t => t.telemetry.length) =
      some 29 := by decide

/-- DEC8: the record presented as the first step after reset. -/
theorem test_record_alone :
    seen (step (State.reset.withFetchWord 56 0x03E57B003039A5)) (fun t => (t.trace, t.bench)) =
      some ([.sample 12345 (BitVec.ofInt 32 (-6789))], []) := by decide

/-- Each of the sixteen state codes runs as the first step after reset. -/
theorem test_codes_placed : ∀ c : Code,
    seen (step (State.reset.withFetchWord 4 c.toNat)) id =
      seen (exec (decodeCode c) (State.reset.withFetchWord 4 c.toNat)) id := by decide

/-- The reset memory has its canonical form. -/
theorem test_reset_memory : Memory.wf State.reset.buf := by decide

/-! ## Witnesses: the hypotheses of each statement can be met, each clause at its bounds -/

/-- A state of a report with the window of index 1023, after a frame whose payload was dropped. -/
def report (st : Code) (idx : BitVec 11) : State :=
  { State.reset with
    st := st, status := 0x4000, frameLen := 200, payLen := 0, buf := Memory.cleared, fpRaw := 1023, fp := 1023
    winStart := 1013, winEnd := 1023, idx := idx, re := 3, im := 4, magMilli := 5000 }

/-- The same report stopped by a fault at its last sample. -/
def stopped : State :=
  { report 0xD 1023 with faultCode := 0x6, faultState := 0x8, faultIdx := 1023 }

theorem cleared_padding (k : Nat) (h : k < 127) : Memory.read Memory.cleared k = some 0 := by
  rw [Memory.read_cleared, if_pos h]

theorem reset_inv : Inv State.reset := by
  refine ⟨by decide, rfl, by decide, by decide, fun _ => ⟨rfl, rfl, rfl⟩, ?_, ?_, ?_, ?_, ?_, ?_, ?_, ?_, ?_, ?_, ?_,
    ?_, ?_, ?_⟩ <;> simp [State.reset, State.resetWith, Between]

/-- What the invariant says of `report` whatever the step. -/
theorem report_data (st : Code) (idx : BitVec 11) :
    (report st idx).params.wf = true ∧ (report st idx).payLen.toNat = 0 ∧ (report st idx).frameLen.toNat = 200
    ∧ (report st idx).frameLen &&& (report st idx).params.rxlenMask = (report st idx).frameLen
    ∧ (report st idx).status &&& (report st idx).params.goodMask ≠ 0
    ∧ (report st idx).fp.toNat = fpOf (report st idx).fpRaw
    ∧ (report st idx).winStart.toNat = startOf (report st idx).fp.toNat
    ∧ (report st idx).winEnd.toNat = stopOf (report st idx).fp.toNat :=
  ⟨(by decide : exampleParams.wf = true), rfl, rfl, (by decide : (200 : Word32) &&& 0x3FF = 200),
    (by decide : (0x4000 : Word32) &&& 0x4000 ≠ 0), rfl, rfl, rfl⟩

/-- The metadata line is out. -/
theorem report_begin_inv : Inv (report 0x7 0) := by
  obtain ⟨h1, h2, h3, h4, h5, h6⟩ := report_data 0x7 0
  refine ⟨h1, rfl, Memory.cleared_wf, by decide, fun _ => ⟨rfl, rfl, rfl⟩, ?_, fun _ k _ hk => cleared_padding k hk,
    fun _ k hk => absurd hk (by omega), fun _ => by omega, fun _ => rfl, ?_, fun _ => by rw [h2, h3]; rfl, fun _ => h4,
    fun _ => h5, ?_, fun _ => h6, ?_, ?_, ?_⟩ <;> simp [report, Between]

/-- The last sample of the window is about to be printed. -/
theorem report_last_inv : Inv (report 0x9 1023) := by
  obtain ⟨h1, h2, h3, h4, h5, h6⟩ := report_data 0x9 1023
  refine ⟨h1, rfl, Memory.cleared_wf, by decide, fun _ => ⟨rfl, rfl, rfl⟩, ?_, fun _ k _ hk => cleared_padding k hk,
    fun _ k hk => absurd hk (by omega), fun _ => by omega, fun _ => rfl, ?_, fun _ => by rw [h2, h3]; rfl, fun _ => h4,
    fun _ => h5, ?_, fun _ => h6, fun _ => by decide, ?_, fun _ => ⟨3, 4, by decide⟩⟩ <;> simp [report, Between]

theorem stopped_inv : Inv stopped := by
  refine ⟨by decide, rfl, Memory.cleared_wf, by decide, fun h => absurd rfl h, fun _ => ⟨?_, fun h => absurd rfl h⟩,
    fun _ k _ hk => cleared_padding k hk, fun _ k hk => absurd hk (Nat.not_lt_zero k), fun _ => Nat.zero_le _,
    fun _ => rfl, ?_, ?_, ?_, ?_, ?_, ?_, ?_, ?_, ?_⟩
  · simp [FaultRow, stopped]
  all_goals simp [stopped, report, Between]

theorem test_witness_ResetTakesPrecedence :
    (State.reset.setReset true).params.wf = true ∧ (State.reset.setReset true).rstIn = true := by decide

/-- R260: a pulse with no step in it, from a block that has stopped, leaves S_ARM_CLEAR and no fault. -/
theorem test_witness_ReleaseLeavesTheResetValues :
    (stopped.setReset true).rstIn = true ∧ stopped.params.wf = true ∧ stopped.rstIn = false ∧ stopped.st = 0xD
    ∧ ((stopped.setReset true).setReset false).st = 0x0 ∧ ((stopped.setReset true).setReset false).faultCode = 0 := by
  decide

theorem test_witness_StepRunsTheSelectedOperation (c : Code) : Running (here c []) ∧ (here c []).st = c :=
  ⟨⟨by show exampleParams.wf = true; decide, rfl, rfl⟩, rfl⟩

theorem test_witness_StepRunsThePresentedWord :
    (here 0x0 []).params.wf = true ∧ ((here 0x0 []).present (encode .armRx)).rstIn = false
    ∧ ((here 0x0 []).present (encode .armRx)).st ≠ 0xD
    ∧ 1 < ((here 0x0 []).present (encode .armRx)).bench.length
    ∧ decode ((here 0x0 []).present (encode .armRx)).bench = .ok .armRx := by decide

theorem test_witness_PlacedWordRunsNext :
    State.reset.params.wf = true ∧ decodeTableWord 4 0xF = some (.sReserved 1)
    ∧ decodeTableWord 64 0x4000000100000000 = some (.readRxData 1)
    ∧ decodeTableWord 56 0 = some (.accRecord 0) := by decide

theorem test_witness_DecodeOfEncode :
    (Instr.readRxData 1).wf = true ∧ (Instr.readRxData 65535).wf = true
    ∧ (Instr.tlmCir 1023 131071 131072 185363800).wf = true ∧ (Instr.sReserved 1).wf = true := by decide

theorem test_witness_EncodeOfDecode :
    decode [0x0F] = .ok (.sReserved 1) ∧ decode (leBytes 8 0x500003FF00000000) = .ok (.readAcc 1023)
    ∧ decode (leBytes 7 0xFFFFFFFFFFFFFF) = .ok (.accRecord 0xFFFFFFFFFFFFFF) := by decide

/-- One word for each way of being reserved; the last but one, WRITE_CLEAR32 with the identifier 1, is refused by the
model's choice (log 19). -/
theorem test_witness_ReservedRequestsAreRefused :
    (0x0000000000000000 : BitVec 64).extractLsb' 60 4 = 0
    ∧ 7 ≤ ((0x7000000000000000 : BitVec 64).extractLsb' 60 4).toNat
    ∧ (0x1001000000000000 : BitVec 64).extractLsb' 48 8 ≠ 0
    ∧ 2 ≤ ((0x2200000000000000 : BitVec 64).extractLsb' 56 4).toNat
    ∧ ((0x1100000000000000 : BitVec 64).extractLsb' 56 4 ≠ 0 ∧ (0x1100000000000000 : BitVec 64).extractLsb' 60 4 ≠ 2)
    ∧ ((0x3100000000004000 : BitVec 64).extractLsb' 56 4 ≠ 0 ∧ (0x3100000000004000 : BitVec 64).extractLsb' 60 4 ≠ 2)
    ∧ ((0x4000000000000000 : BitVec 64).extractLsb' 60 4 = 4 ∧ (0x4000000000000000 : BitVec 64).extractLsb' 32 16 = 0) := by
  decide

/-- The responses that ArmReqEffect, PollEffect, GoodLenEffect, GoodDiagEffect, GoodClrEffect, ErrClrEffect,
ExtReadEffect, RequestRowsTransact, RequestRowsFault, NoResponseHolds and WrongResponsesAreRefused assume. -/
theorem test_witness_responses :
    (here 0x1 [.ack]).responses = .ack :: [] ∧ (here 0x1 [.fault]).responses = .fault :: []
    ∧ (here 0x2 [.word 5]).responses = .word 5 :: [] ∧ (here 0x5 [.diag 1023 []]).responses = .diag 1023 [] :: []
    ∧ (here 0x8 [.bytes [1, 2, 3, 4, 5, 6, 7]]).responses = recordResponse ⟨1, 2, 3, 4, 5, 6, 7⟩ :: []
    ∧ (here 0x1 []).responses = [] ∧ (here 0x1 []).bench = [] := by decide

/-- GoodDiagEffect's index, at both sides of its bound. -/
theorem test_witness_GoodDiagEffect :
    (1023 : Nat) = (if (1023 : BitVec 16).toNat < 1024 then (1023 : BitVec 16).toNat else 0)
    ∧ (0 : Nat) = (if (1024 : BitVec 16).toNat < 1024 then (1024 : BitVec 16).toNat else 0) := by decide

/-- GoodCopyEffect at `n = 1`, at the largest `n` of a run, 125, and with FAULT at 1024. -/
theorem test_witness_GoodCopyEffect :
    let s := { here 0x4 [.bytes [9]] with frameLen := 3 }
    let l := { here 0x4 [.bytes (List.replicate 125 0)] with frameLen := 127 }
    s.frameLen.toNat = 1 + 2 ∧ 1 ≤ s.params.rxmemSize ∧ s.responses = .bytes [9] :: []
    ∧ l.frameLen.toNat = 125 + 2 ∧ 125 ≤ l.params.rxmemSize ∧ l.responses = .bytes (List.replicate 125 0) :: []
    ∧ (List.replicate 125 (0 : Byte)).length = 125
    ∧ ({ here 0x4 [.fault] with frameLen := 1026 } : State).frameLen.toNat = 1024 + 2
    ∧ 1024 ≤ (here 0x4 [.fault]).params.rxmemSize ∧ (here 0x4 [.fault]).responses = .fault :: [] :=
  ⟨by decide, by decide, rfl, by decide, by decide, rfl, rfl, by decide, by decide, rfl⟩

/-- GoodCopyStops at its bounds: 2; 65538; one byte more than the receive memory, for both rows; 128 bytes. -/
theorem test_witness_GoodCopyStops :
    ({ here 0x4 [] with frameLen := 2 } : State).frameLen.toNat ≤ 2
    ∧ 65538 ≤ ({ here 0x4 [] with frameLen := 65538 } : State).frameLen.toNat
    ∧ ({ here 0x4 [] with frameLen := 1027 } : State).frameLen.toNat = 1025 + 2
    ∧ (here 0x4 []).params.rxmemSize < 1025
    ∧ ({ here 0x4 [.bytes (List.replicate 128 0)] with frameLen := 130 } : State).frameLen.toNat = 128 + 2
    ∧ (here 0x4 [.bytes (List.replicate 128 0)]).responses = .bytes (List.replicate 128 0) :: []
    ∧ (List.replicate 128 (0 : Byte)).length = 128 ∧ 128 ≤ (here 0x4 []).params.rxmemSize
    ∧ 1 ≤ (1025 : BitVec 16).toNat ∧ (here 0x0 []).params.rxmemSize < (1025 : BitVec 16).toNat :=
  ⟨by decide, by decide, by decide, by decide, by decide, rfl, rfl, by decide, by decide, by decide⟩

/-- The sink of RepMetaEffect, RepBeginEffect, RepEndEffect, ExtEmitEffect, ExtEmitAtTheTop, LineRowsEmit and
HeldSinkHolds; the last index whose successor ExtEmitEffect gives, and the one of ExtEmitAtTheTop. -/
theorem test_witness_sink :
    (here 0x6 []).sinkHold = false ∧ ((here 0x6 []).setSinkHold true).sinkHold = true
    ∧ ({ here 0x9 [] with idx := 2046 } : State).idx.toNat < 2047
    ∧ ({ here 0x9 [] with idx := 2047 } : State).idx.toNat = 2047 := by decide

theorem test_witness_FaultedHolds :
    (here 0xD [.ack]).params.wf = true ∧ (here 0xD [.ack]).rstIn = false ∧ (here 0xD [.ack]).st = 0xD := by decide

/-- RequestRowsTransact and RequestRowsFault: LEN at 1 and at the receive memory's size; FAULT for a presented word, which
the step runs, and without one. -/
theorem test_witness_RequestRows :
    (here 0x0 [.bytes [9]]).responses = .bytes [9] :: [] ∧ [(9 : Byte)].length = (1 : BitVec 16).toNat
    ∧ 1 ≤ (1 : BitVec 16).toNat ∧ (1024 : BitVec 16).toNat ≤ (here 0x0 []).params.rxmemSize
    ∧ (here 0x0 [.fault]).responses = .fault :: [] ∧ (here 0x0 [.fault]).params.wf = true
    ∧ ((here 0x0 [.fault]).present (encode .armRx)).responses = .fault :: []
    ∧ ((here 0x0 [.fault]).present (encode .armRx)).bench = encode .armRx
    ∧ seen (step ((here 0x0 [.fault]).present (encode .armRx))) (fun t => (t.faultCode, t.bench)) = some (0x1, []) := by
  decide

/-- NoResponseHolds and WrongResponsesAreRefused: the shortest and the longest frame that reaches the port, and LEN 1 and
the receive memory's size. -/
theorem test_witness_copied_lengths :
    2 < ({ here 0x4 [] with frameLen := 3 } : State).frameLen.toNat
    ∧ ({ here 0x4 [] with frameLen := 1026 } : State).frameLen.toNat < 65538
    ∧ ({ here 0x4 [] with frameLen := 1026 } : State).frameLen.toNat - 2 ≤ (here 0x4 []).params.rxmemSize
    ∧ ({ here 0x4 [] with frameLen := 1026 } : State).frameLen.toNat = 1024 + 2
    ∧ 1 ≤ (1 : BitVec 16).toNat ∧ (1024 : BitVec 16).toNat ≤ (here 0x4 []).params.rxmemSize := by decide

/-- WrongResponsesAreRefused: bytes meet the clauses that ask for no data, a word, diagnostics or a record; two bytes, and
data that is no bytes, meet those that ask for one byte. -/
theorem test_witness_WrongResponsesAreRefused :
    (here 0x4 [.bytes [1, 2]]).responses = .bytes [1, 2] :: [] ∧ Response.bytes [1, 2] ≠ .fault
    ∧ Response.bytes [1, 2] ≠ .ack ∧ (∀ w, Response.bytes [1, 2] ≠ .word w)
    ∧ (∀ f other, Response.bytes [1, 2] ≠ .diag f other) ∧ (∀ q, Response.bytes [1, 2] ≠ recordResponse q)
    ∧ (∀ bs, Response.bytes [1, 2] = .bytes bs → bs.length ≠ 1)
    ∧ (here 0x4 [.word 5]).responses = .word 5 :: [] ∧ Response.word 5 ≠ .fault
    ∧ (∀ bs, Response.word 5 = .bytes bs → bs.length ≠ 1) := by
  refine ⟨by decide, by decide, by decide, ?_, ?_, ?_, ?_, by decide, by decide, ?_⟩ <;> simp [recordResponse]

theorem test_witness_SignExtensionForms :
    (0x20000 : BitVec 18).getLsbD 17 = true ∧ (0x3FFFF : BitVec 18).getLsbD 17 = true
    ∧ (0x1FFFF : BitVec 18).getLsbD 17 = false ∧ (0x00000 : BitVec 18).getLsbD 17 = false := by decide

/-- Two records that differ in ignored bits only (DEC7). -/
theorem test_witness_DecodeIgnoresOtherBits :
    let r : Record := ⟨0xFF, 0x03, 0x00, 0xFC, 0x04, 0x00, 0xFC⟩
    let q : Record := ⟨0x00, 0x03, 0x00, 0x00, 0x04, 0x00, 0x00⟩
    r ≠ q ∧ r.b1 = q.b1 ∧ r.b2 = q.b2 ∧ r.b3.toNat % 4 = q.b3.toNat % 4
    ∧ r.b4 = q.b4 ∧ r.b5 = q.b5 ∧ r.b6.toNat % 4 = q.b6.toNat % 4 := by decide

/-- The extremes of DecodedRangeIsABijection, DecodeOfEncodedSample and MagnitudeIsNearest. -/
theorem test_witness_component_range :
    (-131072 : Int) ≤ -131072 ∧ (-131072 : Int) ≤ 131071 ∧ ((131072 : Nat) : Int) = (-131072 : Int) % 262144
    ∧ ((131071 : Nat) : Int) = (131071 : Int) % 262144 ∧ 0 < magOf 1 0 := by decide

/-- WindowBounds at the four clamps. -/
theorem test_witness_WindowBounds :
    (10 : BitVec 10).toNat ≤ 10 ∧ 10 ≤ (10 : BitVec 10).toNat ∧ (973 : BitVec 10).toNat ≤ 973
    ∧ 973 ≤ (973 : BitVec 10).toNat ∧ (0 : BitVec 10).toNat ≤ 10 ∧ 973 ≤ (1023 : BitVec 10).toNat := by decide

/-- IsqrtIsTheLargestRoot below a square and at one; the spellings of zero and of -1. -/
theorem test_witness_numbers :
    3 * 3 ≤ 15 ∧ 4 * 4 ≤ 16 ∧ (udec 0).head? = some 0x30 ∧ (0 : Int) ≤ 0 ∧ (-1 : Int) < 0 := by decide

/-- LineLengths at its bounds (L6, L7), and a line of each kind for LinesAreFramed. -/
theorem test_witness_lines :
    (cirLine 0 0 0 0).length = 17 ∧ (cirLine 1023 (-131072) (-131072) 185363800).length = 37
    ∧ (∃ fp start stop, metaLine 0 0 50 = metaLine fp start stop) ∧ (∃ i a b m, cirLine 0 0 0 0 = cirLine i a b m)
    ∧ beginLine.length = 13 ∧ endLine.length = 11 :=
  ⟨by decide, by decide, ⟨_, _, _, rfl⟩, ⟨_, _, _, _, rfl⟩, rfl, rfl⟩

/-- InvariantAtReset, with the smallest and the largest length mask and the smallest receive memory. -/
theorem test_witness_InvariantAtReset :
    exampleParams.wf = true ∧ ({ exampleParams with rxlenMask := 1, rxmemSize := 125 } : Config.Params).wf = true
    ∧ ({ exampleParams with rxlenMask := 0xFFFF } : Config.Params).wf = true := by decide

theorem test_witness_StepKeepsTheInvariant :
    (Inv State.reset ∧ ∃ t, step State.reset = .next t) ∧ (Inv (report 0x9 1023) ∧ ∃ t, step (report 0x9 1023) = .next t)
    ∧ (Inv stopped ∧ ∃ t, step stopped = .next t) :=
  ⟨⟨reset_inv, _, rfl⟩, ⟨report_last_inv, _, rfl⟩, stopped_inv, _, rfl⟩

/-- A wait, a fault, a reserved code, an edge of the graph and FAULTED. -/
theorem test_witness_StepsFollowTheGraph :
    seen (step (here 0x2 [])) (fun t => t.st) = some 0x2 ∧ seen (step (here 0x2 [.fault])) (fun t => t.st) = some 0xD
    ∧ seen (step (here 0xE [])) (fun t => t.st) = some 0xD ∧ seen (step (here 0x0 [])) (fun t => t.st) = some 0x1
    ∧ seen (step (here 0xD [])) (fun t => t.st) = some 0xD := by decide

theorem test_witness_OnlyTableWordsAreIssued :
    Inv State.reset ∧ OnlyIssued State.reset ∧ ∃ t, step State.reset = .next t :=
  ⟨reset_inv, fun _ _ h => absurd h List.not_mem_nil, _, rfl⟩

/-- At reset, and when the metadata line is out. -/
theorem test_witness_TelemetryIsGroups :
    (Inv State.reset ∧ Framed State.reset ∧ ∃ t, step State.reset = .next t)
    ∧ ∃ s : State, Inv s ∧ Framed s ∧ s.st = 0x7 ∧ ∃ t, step s = .next t := by
  refine ⟨⟨reset_inv, ⟨[], [], rfl, .none, ?_⟩, _, rfl⟩, { report 0x7 0 with trace := [.line (metaLine 1023 1013 1023)] },
    ?_, ⟨[], [metaLine 1023 1013 1023], rfl, .none, ?_⟩, rfl, _, rfl⟩
  · simp [State.reset, State.resetWith, Between]
  · have h := report_begin_inv
    exact { h with }
  · simp [report, Between]

/-- EmittedLinesAreText, when the metadata line is out. -/
theorem test_witness_EmittedLinesAreText :
    let s := { report 0x7 0 with trace := [.line (metaLine 1023 1013 1023)] }
    Inv s ∧ Framed s ∧ Event.line (metaLine 1023 1013 1023) ∈ s.trace ∧ 0x43 ∈ s.telemetry := by
  refine ⟨?_, ⟨[], [metaLine 1023 1013 1023], rfl, .none, ?_⟩, List.mem_singleton.2 rfl, by decide⟩
  · have h := report_begin_inv
    exact { h with }
  · simp [report, Between]

/-- For each clause of RegisterWriters, a step that changes the register. -/
theorem test_witness_RegisterWriters :
    seen (step (here 0x2 [.word 0])) (fun t => decide (t.status ≠ (here 0x2 []).status)) = some true
    ∧ seen (step (here 0x3 [.word 12])) (fun t => decide (t.frameLen ≠ (here 0x3 []).frameLen)) = some true
    ∧ seen (step (here 0x0 [])) (fun t => decide (t.payLen ≠ (here 0x0 []).payLen ∧ t.buf ≠ [])) = some true
    ∧ seen (step (here 0x5 [.diag 100 []])) (fun t => decide (t.fpRaw ≠ (here 0x5 []).fpRaw
      ∧ t.fp ≠ (here 0x5 []).fp ∧ t.winStart ≠ (here 0x5 []).winStart ∧ t.winEnd ≠ (here 0x5 []).winEnd)) = some true
    ∧ seen (step (here 0x7 [])) (fun t => decide (t.idx ≠ (here 0x7 []).idx)) = some true
    ∧ seen (step (here 0x8 [.bytes [0, 3, 0, 0, 4, 0, 0]])) (fun t => decide (t.re ≠ (here 0x8 []).re
      ∧ t.im ≠ (here 0x8 []).im ∧ t.magMilli ≠ (here 0x8 []).magMilli)) = some true
    ∧ seen (step (here 0x2 [.fault])) (fun t => decide (t.faultCode ≠ 0 ∧ t.st = 0xD)) = some true := by decide

/-- OneEventPerStep: a step with no event, with a request, with a line. -/
theorem test_witness_OneEventPerStep :
    Running (here 0x0 []) ∧ seen (step (here 0x0 [])) (fun t => t.trace.length) = some 0
    ∧ seen (step (here 0x1 [.ack])) (fun t => t.trace.length) = some 1
    ∧ seen (step (here 0xA [])) (fun t => t.trace.length) = some 1 :=
  ⟨⟨by decide, rfl, rfl⟩, by decide⟩

/-- CLS1. -/
theorem pending_zero (w : Word32) (hw : w ∈ [(0 : Word32)]) :
    w &&& exampleParams.goodMask = 0 ∧ w &&& exampleParams.errMask = 0 := by
  rw [List.mem_singleton.1 hw]
  decide

/-- Eleven zero records: the window of index 1023. -/
def zeros : List Record := List.replicate 11 ⟨0, 0, 0, 0, 0, 0, 0⟩

theorem test_witness_GroupRun :
    let s := { report 0x6 0 with responses := zeros.map recordResponse ++ [.ack] }
    Running s ∧ s.sinkHold = false ∧ s.st = 0x6 ∧ s.fp.toNat = 1023 ∧ s.winStart.toNat = startOf 1023
    ∧ s.winEnd.toNat = stopOf 1023 ∧ zeros.length = stopOf 1023 - startOf 1023 + 1
    ∧ s.responses = zeros.map recordResponse ++ [.ack] :=
  ⟨⟨by decide, rfl, rfl⟩, rfl, rfl, rfl, rfl, rfl, rfl, rfl⟩

/-- With a copy of 125 bytes, with one of a single byte, and with the payload dropped. -/
theorem test_witness_GoodIteration :
    let good := fun (info : Word32) (pay : List Byte) => here 0x0 (.ack :: ([(0 : Word32)].map .word ++ .word 0x4000 ::
      .word info :: ((if pay = [] then [] else [.bytes pay]) ++ .diag 1023 [] :: (zeros.map recordResponse ++ .ack :: []))))
    (∀ info pay, Running (good info pay) ∧ (good info pay).sinkHold = false ∧ (good info pay).st = 0x0
      ∧ (good info pay).responses = .ack :: ([(0 : Word32)].map .word ++ .word 0x4000 :: .word info ::
        ((if pay = [] then [] else [.bytes pay]) ++ .diag 1023 [] :: (zeros.map recordResponse ++ .ack :: []))))
    ∧ (∀ w ∈ [(0 : Word32)], w &&& exampleParams.goodMask = 0 ∧ w &&& exampleParams.errMask = 0)
    ∧ (0x4000 : Word32) &&& exampleParams.goodMask ≠ 0
    ∧ 127 = ((127 : Word32) &&& exampleParams.rxlenMask).toNat ∧ 3 = ((3 : Word32) &&& exampleParams.rxlenMask).toNat
    ∧ 128 = ((128 : Word32) &&& exampleParams.rxlenMask).toNat
    ∧ (List.replicate 125 (0 : Byte)).length = (if 2 < 127 ∧ 127 ≤ 127 then 127 - 2 else 0)
    ∧ ([9] : List Byte).length = (if 2 < 3 ∧ 3 ≤ 127 then 3 - 2 else 0)
    ∧ ([] : List Byte).length = (if 2 < 128 ∧ 128 ≤ 127 then 128 - 2 else 0)
    ∧ zeros.length = stopOf (fpOf 1023) - startOf (fpOf 1023) + 1 :=
  ⟨fun _ _ => ⟨⟨by show exampleParams.wf = true; decide, rfl, rfl⟩, rfl, rfl, rfl⟩, pending_zero, by decide, by decide, by decide,
    by decide, rfl, rfl, rfl, rfl⟩

theorem test_witness_ErrorIteration :
    let s := here 0x0 (.ack :: ([(0 : Word32)].map .word ++ .word 0x1000 :: .ack :: []))
    Running s ∧ s.st = 0x0 ∧ (∀ w ∈ [(0 : Word32)], w &&& s.params.goodMask = 0 ∧ w &&& s.params.errMask = 0)
    ∧ (0x1000 : Word32) &&& s.params.goodMask = 0 ∧ (0x1000 : Word32) &&& s.params.errMask ≠ 0
    ∧ s.responses = .ack :: ([(0 : Word32)].map .word ++ .word 0x1000 :: .ack :: []) :=
  ⟨⟨by decide, rfl, rfl⟩, rfl, pending_zero, by decide, by decide, rfl⟩

/-- PendingStatusesNeverEndThePoll with no status and with one (CLS7). -/
theorem test_witness_PendingStatusesNeverEndThePoll :
    let s := here 0x2 ([(0xFFFF2FFF : Word32)].map .word ++ [])
    Running s ∧ s.st = 0x2 ∧ (∀ w ∈ [(0xFFFF2FFF : Word32)], w &&& s.params.goodMask = 0 ∧ w &&& s.params.errMask = 0)
    ∧ s.responses = [(0xFFFF2FFF : Word32)].map .word ++ [] ∧ (here 0x2 []).responses = [].map Response.word ++ [] :=
  ⟨⟨by decide, rfl, rfl⟩, rfl, fun w hw => by rw [List.mem_singleton.1 hw]; decide, rfl, rfl⟩

theorem test_witness_FaultedForEver :
    (here 0xD []).params.wf = true ∧ (here 0xD []).rstIn = false ∧ (here 0xD []).st = 0xD := by decide

end Sys2Proof.Tests
end

section
/-! SUPPORT. The square root and the rows that a test bench presents: 00_scope.md R14 to R16. -/

namespace Sys2Proof.Machine

open Sys2Proof.Safety

/-! ### The integer square root (00_scope.md R16) -/

/-- The bits still to be tried decide within `[q, q + 2 ^ k)`, which holds the root all along. -/
theorem isqrtGo_eq_sqrt {n k q : Nat} (hlo : q * q ≤ n) (hhi : n < (q + 2 ^ k) * (q + 2 ^ k)) :
    isqrtGo n k q = Nat.sqrt n := by
  induction k generalizing q with
  | zero => exact Nat.eq_sqrt.2 ⟨hlo, hhi⟩
  | succ k ih =>
    simp only [isqrtGo]
    split
    next hbit =>
      have htop : q + 2 ^ k + 2 ^ k = q + 2 ^ (k + 1) := by omega
      exact ih hbit (htop ▸ hhi)
    next hbit => exact ih hlo (Nat.lt_of_not_le hbit)

/-- The root is below the power of two from which `isqrt` tries the bits. -/
theorem lt_isqrt_start_sq (n : Nat) : n < 2 ^ (n.log2 / 2 + 1) * 2 ^ (n.log2 / 2 + 1) :=
  calc n < 2 ^ (n.log2 + 1) := Nat.lt_log2_self
    _ ≤ 2 ^ ((n.log2 / 2 + 1) + (n.log2 / 2 + 1)) := Nat.pow_le_pow_right (by decide) (by omega)
    _ = 2 ^ (n.log2 / 2 + 1) * 2 ^ (n.log2 / 2 + 1) := Nat.pow_add _ _ _

theorem isqrt_eq_sqrt (n : Nat) : isqrt n = Nat.sqrt n :=
  isqrtGo_eq_sqrt (Nat.zero_le n) (by simpa only [Nat.zero_add] using lt_isqrt_start_sq n)

/-! ### The request words without operands, as numbers (30_encoding.md R98) -/

theorem armWord_eq : armWord = 0x1000000000000000 := by decide
theorem regReadWord_ridStatus : regReadWord Config.ridStatus = 0x2000000000000000 := by decide
theorem regReadWord_ridRxinfo : regReadWord Config.ridRxinfo = 0x2100000000000000 := by decide
theorem diagWord_eq : diagWord = 0x6000000000000000 := by decide

/-! ### The request rows (30_encoding.md R98) and the line rows (R84 to R91) as the shared operations -/

variable {s : State} {w : BitVec 64} {r : Response} {rest : List Response}

/-- A LEN that the port can carry and the receive memory holds makes a request (log 12). -/
theorem execReadRxData_request {len : BitVec 16} (hpos : 1 ≤ len.toNat) (hmem : len.toNat ≤ s.params.rxmemSize) :
    execReadRxData len s = requestAlone (rxDataWord len) (takeBytes len.toNat) fPayloadRead s := by
  have hne : len ≠ 0 := by rintro rfl; exact absurd hpos (by decide)
  rw [execReadRxData, if_neg hne, if_neg (Nat.not_lt.2 hmem)]

/-- Once a response is there, WRITE_CLEAR32 is one request, before which only the counter of free values may have
advanced (log 8). -/
theorem execWriteClear32_request (mask : Word32) (h : s.responses = r :: rest) :
    ∃ n, execWriteClear32 mask s =
      requestAlone (clearWord mask) takeAck (clearCode s mask) { s with freeCount := n } := by
  have hsome : s.responses.isEmpty = false := by rw [h]; rfl
  simp only [execWriteClear32, hsome, Bool.false_eq_true, if_false]
  split
  · exact ⟨s.freeCount, rfl⟩
  · exact ⟨s.freeCount + 1, rfl⟩

/-- A request row that gets the data of its request, in the words of the claims. -/
theorem requestAlone_answeredBy {α : Type} {take : Response → Option α} {c : Code} {a : α}
    (h : s.responses = r :: rest) (hr : r ≠ .fault) (ha : take r = some a) :
    requestAlone w take c s = .next { answeredBy s w r rest with bench := [] } :=
  requestAlone_ok h hr ha

/-- A line row that the sink lets go, in the words of the claims. -/
theorem lineAlone_emitted {bs : List Byte} (h : s.sinkHold = false) :
    lineAlone bs s = .next { emitted s bs with bench := [] } :=
  lineAlone_free h

end Sys2Proof.Machine
end

section
/-! PROOFS. The statements of 00_scope.md: O39, O4, O27 and O29. -/

namespace Sys2Proof.Machine

open Sys2Proof.Safety

/-- Settles O39: the bit-by-bit search ends at Mathlib's `Nat.sqrt`. -/
theorem isqrtIsTheLargestRoot : Obligations.IsqrtIsTheLargestRoot := by
  intro n
  rw [isqrt_eq_sqrt]
  exact ⟨Nat.sqrt_le n, fun _ => Nat.le_sqrt.2⟩

/-- Settles O4: at two bytes or more, `decode` is the boundary's decoder. -/
theorem stepRunsThePresentedWord : Obligations.StepRunsThePresentedWord := by
  intro s i hp hr hd hlen hi
  have hne : s.bench ≠ [] := List.ne_nil_of_length_pos (by omega)
  exact step_bench hp hr hd hne ((decode_boundary (by omega)).symm.trans hi)

/-- Settles O27: each row is `requestAlone` of its word, and takes the data that R99 gives its request. -/
theorem requestRowsTransact : Obligations.RequestRowsTransact := by
  intro s rest
  refine ⟨fun h => ⟨?armRx, fun mask => ?writeClear32⟩, fun v h => ⟨?status, ?rxinfo⟩,
    fun len bs h hlen hpos hmem => ?readRxData, fun index q h => ?readAcc, fun f other h => ?readDiag⟩
  case armRx =>
    rw [← armWord_eq]
    exact requestAlone_answeredBy h Response.noConfusion rfl
  case writeClear32 =>
    obtain ⟨n, hn⟩ := execWriteClear32_request mask h
    rw [← clearWord_eq]
    exact ⟨_, hn.trans (requestAlone_answeredBy h Response.noConfusion rfl), rfl⟩
  case status =>
    rw [← regReadWord_ridStatus]
    exact requestAlone_answeredBy h Response.noConfusion rfl
  case rxinfo =>
    rw [← regReadWord_ridRxinfo]
    exact requestAlone_answeredBy h Response.noConfusion rfl
  case readRxData =>
    rw [← rxDataWord_eq]
    exact (execReadRxData_request hpos hmem).trans
      (requestAlone_answeredBy h Response.noConfusion (if_pos hlen))
  case readAcc =>
    rw [← accWord_eq]
    exact requestAlone_answeredBy h Response.noConfusion (takeRecord_recordResponse q)
  case readDiag =>
    rw [← diagWord_eq]
    exact requestAlone_answeredBy h Response.noConfusion rfl

/-- Settles O29: each row is `lineAlone` of its bytes. -/
theorem lineRowsEmit : Obligations.LineRowsEmit := fun _ h =>
  ⟨fun _ _ _ => lineAlone_emitted h, lineAlone_emitted h, fun _ _ _ _ => lineAlone_emitted h, lineAlone_emitted h⟩

end Sys2Proof.Machine
end

section
/-! SUPPORT. What one step of the block itself can do, said once (10_state.md R21, R22). -/

namespace Sys2Proof.Machine

open Sys2Proof.Safety

/-- The operation of the state code, completed: the step neither waits nor faults. The rows give the next state as the old
one with the fields that the operation's rule names. -/
inductive Completes (s : State) : State → Prop
  | armClear : s.st = 0x0 → Completes s { s with buf := Memory.cleared, payLen := 0, st := 0x1 }
  | armReq (rest : List Response) : s.st = 0x1 → s.responses = .ack :: rest →
      Completes s { s.answered armWord .ack rest with st := 0x2 }
  | poll (v : Word32) (rest : List Response) : s.st = 0x2 → s.responses = .word v :: rest →
      Completes s { s.answered (regReadWord Config.ridStatus) (.word v) rest with
        status := v, st := pollTarget (classOf s.params v) }
  | goodLen (v : Word32) (rest : List Response) : s.st = 0x3 → s.responses = .word v :: rest →
      Completes s { s.answered (regReadWord Config.ridRxinfo) (.word v) rest with
        frameLen := v &&& s.params.rxlenMask
        st := if copyTaken (v &&& s.params.rxlenMask).toNat then 0x4 else 0x5 }
  | goodCopy (n : BitVec 16) (bs : List Byte) (m : Memory) (rest : List Response) : s.st = 0x4 →
      payloadLen s.frameLen = some n → n.toNat ≤ s.params.rxmemSize → s.responses = .bytes bs :: rest →
      bs.length = n.toNat → Memory.writeBytes s.buf 0 bs = some m →
      Completes s { s.answered (rxDataWord n) (.bytes bs) rest with buf := m, payLen := n.setWidth 8, st := 0x5 }
  | goodDiag (raw : BitVec 16) (other : List Byte) (rest : List Response) : s.st = 0x5 →
      s.responses = .diag raw other :: rest →
      Completes s { s.answered diagWord (.diag raw other) rest with
        fpRaw := raw, fp := substFp raw, winStart := windowStart (substFp raw), winEnd := windowEnd (substFp raw)
        st := 0x6 }
  | repMeta : s.st = 0x6 → s.sinkHold = false →
      Completes s { emitted s (metaLine s.fp.toNat s.winStart.toNat s.winEnd.toNat) with st := 0x7 }
  | repBegin : s.st = 0x7 → s.sinkHold = false →
      Completes s { emitted s beginLine with
        idx := s.winStart.setWidth 11, st := if s.winStart.toNat ≤ s.winEnd.toNat then 0x8 else 0xA }
  | extRead (q : Record) (rest : List Response) : s.st = 0x8 → s.responses = recordResponse q :: rest →
      Completes s { s.answered (accWord (idxLow s)) (recordResponse q) rest with
        re := toS32 (reOf q), im := toS32 (imOf q), magMilli := BitVec.ofNat 28 (magOf (reOf q) (imOf q)), st := 0x9 }
  | extEmit : s.st = 0x9 → s.sinkHold = false →
      Completes s { bumpIdx (emitted s (cirLine s.idx.toNat s.re.toInt s.im.toInt s.magMilli.toNat)) with
        st := if s.idx.toNat + 1 ≤ s.winEnd.toNat then 0x8 else 0xA }
  | repEnd : s.st = 0xA → s.sinkHold = false → Completes s { emitted s endLine with st := 0xB }
  | goodClr (rest : List Response) : s.st = 0xB → s.responses = .ack :: rest →
      Completes s { s.answered (clearWord s.params.goodMask) .ack rest with st := 0x0 }
  | errClr (rest : List Response) : s.st = 0xC → s.responses = .ack :: rest →
      Completes s { s.answered (clearWord s.params.errMask) .ack rest with st := 0x0 }

/-- A next state of the block's own step: it holds, it enters FAULTED, or the operation is completed. -/
inductive BlockStep (s : State) : State → Prop
  | stopped : s.st = 0xD → BlockStep s s
  | waits : Waiting s → BlockStep s s
  | badState : 0xE ≤ s.st.toNat → BlockStep s (s.raiseFault fBadState)
  | faults (w : BitVec 64) (c : Code) (rest : List Response) : FaultRow c s.st → s.responses = .fault :: rest →
      BlockStep s ((s.answered w .fault rest).raiseFault c)
  | completes {t : State} : Completes s t → BlockStep s t

variable {s t : State}

/-- The rows of the fault table are those of requesting operations (60_exceptions.md R231). -/
theorem requesting_of_faultRow {c st : Code} (h : FaultRow c st) : Requesting st := by
  rcases h with h | h | h | h | h | h | h | h <;> simp [Requesting, h.2]

/-- A requesting operation's transaction: it waits, it faults with its row's code, or it goes on. -/
theorem blockStep_of_transact {α : Type} {w : BitVec 64} {take : Response → Option α} {c : Code}
    {k : α → State → Result} (hrow : FaultRow c s.st) (h : transact w take c s k = .next t)
    (hok : ∀ r rest a, s.responses = r :: rest → take r = some a → k a (s.answered w r rest) = .next t →
      Completes s t) : BlockStep s t := by
  rcases transact_next h with ⟨hnil, rfl⟩ | ⟨rest, hf, rfl⟩ | ⟨r, rest, a, hr, -, ha, hk⟩
  · exact .waits (Or.inl ⟨requesting_of_faultRow hrow, hnil⟩)
  · exact .faults w c rest hrow hf
  · exact .completes (hok r rest a hr ha hk)

/-- A transaction that asks for no data and then only moves to another state code. -/
theorem blockStep_of_ack {w : BitVec 64} {c d : Code} (hrow : FaultRow c s.st)
    (h : transact w takeAck c s (fun _ u => .next { u with st := d }) = .next t)
    (hok : ∀ rest, s.responses = .ack :: rest → Completes s { s.answered w .ack rest with st := d }) :
    BlockStep s t :=
  blockStep_of_transact hrow h fun _ rest _ hr ha hk =>
    Host.Outcome.next.inj hk ▸ takeAck_eq ha ▸ hok rest (takeAck_eq ha ▸ hr)

/-- An emitting operation's emission: it waits for the sink, or the line is out. -/
theorem blockStep_of_emit {bs : List Byte} {f : State → Result} (he : Emitting s.st) (h : emit bs s f = .next t)
    (hok : s.sinkHold = false → f (emitted s bs) = .next t → Completes s t) : BlockStep s t := by
  rcases emit_next h with ⟨hh, rfl⟩ | ⟨hh, hf⟩
  · exact .waits (Or.inr ⟨he, hh⟩)
  · exact .completes (hok hh hf)

/-- S_GOOD_COPY has a next state only where a request carries the length and the receive memory holds it (R197). -/
theorem execSGoodCopy_next (h : execSGoodCopy s = .next t) :
    ∃ n, payloadLen s.frameLen = some n ∧ n.toNat ≤ s.params.rxmemSize
      ∧ transact (rxDataWord n) (takeBytes n.toNat) fPayloadRead s (fun bs u =>
        match Memory.writeBytes u.buf 0 bs with
        | some m => .next { u with buf := m, payLen := n.setWidth 8, st := 0x5 }
        | none => .fault .noSuchBufferByte) = .next t := by
  unfold execSGoodCopy at h
  split at h
  · nomatch h
  · next n hn =>
    split at h
    · nomatch h
    · next hsize => exact ⟨n, hn, Nat.le_of_not_lt hsize, h⟩

/-- S_GOOD_COPY completes only when every byte of the response has an address. -/
theorem execSGoodCopy_blockStep (hst : s.st = 0x4) (h : execSGoodCopy s = .next t) : BlockStep s t := by
  obtain ⟨n, hn, hsize, h⟩ := execSGoodCopy_next h
  refine blockStep_of_transact (by simp [FaultRow, hst]) h fun r rest bs hr ha hk => ?_
  obtain ⟨rfl, hlen⟩ := takeBytes_eq ha
  cases hm : Memory.writeBytes s.buf 0 bs with
  | none => simp [hm] at hk
  | some m =>
    simp only [State.answered_buf, hm, Host.Outcome.next.injEq] at hk
    exact hk ▸ .goodCopy n bs m rest hst hn hsize hr hlen hm

/-- What a step of the block itself can do. -/
theorem step_blockStep (h : Running s) (ht : step s = .next t) : BlockStep s t := by
  rcases step_next_cases h ht with ⟨hst, h⟩ | ⟨hst, h⟩ | ⟨hst, h⟩ | ⟨hst, h⟩ | ⟨hst, h⟩ | ⟨hst, h⟩ | ⟨hst, h⟩
    | ⟨hst, h⟩ | ⟨hst, h⟩ | ⟨hst, h⟩ | ⟨hst, h⟩ | ⟨hst, h⟩ | ⟨hst, h⟩ | ⟨hst, rfl⟩ | ⟨hst, rfl⟩
  · cases h; exact .completes (.armClear hst)
  · exact blockStep_of_ack (by simp [FaultRow, hst]) h fun rest hr => .armReq rest hst hr
  · refine blockStep_of_transact (by simp [FaultRow, hst]) h fun r rest v hr ha hk => ?_
    obtain rfl := takeWord_eq ha
    cases hk
    exact .poll v rest hst hr
  · refine blockStep_of_transact (by simp [FaultRow, hst]) h fun r rest v hr ha hk => ?_
    obtain rfl := takeWord_eq ha
    cases hk
    exact .goodLen v rest hst hr
  · exact execSGoodCopy_blockStep hst h
  · refine blockStep_of_transact (by simp [FaultRow, hst]) h fun r rest raw hr ha hk => ?_
    obtain ⟨other, rfl⟩ := takeDiag_eq ha
    cases hk
    exact .goodDiag raw other rest hst hr
  · exact blockStep_of_emit (by simp [Emitting, hst]) h fun hh hk => Host.Outcome.next.inj hk ▸ .repMeta hst hh
  · exact blockStep_of_emit (by simp [Emitting, hst]) h fun hh hk => Host.Outcome.next.inj hk ▸ .repBegin hst hh
  · refine blockStep_of_transact (by simp [FaultRow, hst]) h fun r rest q hr ha hk => ?_
    obtain rfl := takeRecord_eq ha
    simp only [decodeSample_eq, Host.Outcome.next.injEq] at hk
    exact hk ▸ .extRead q rest hst hr
  · exact blockStep_of_emit (by simp [Emitting, hst]) h fun hh hk => Host.Outcome.next.inj hk ▸ .extEmit hst hh
  · exact blockStep_of_emit (by simp [Emitting, hst]) h fun hh hk => Host.Outcome.next.inj hk ▸ .repEnd hst hh
  · exact blockStep_of_ack (by simp [FaultRow, hst]) h fun rest hr => .goodClr rest hst hr
  · exact blockStep_of_ack (by simp [FaultRow, hst]) h fun rest hr => .errClr rest hst hr
  · exact .stopped hst
  · exact .badState hst

end Sys2Proof.Machine
end

section
/-! SUPPORT. The invariant by the phases of a run (43_receive_state_machine.md R191 to R206). Each structure collects what
the invariant knows in a phase, as facts about registers that do not speak of `st`; an edge of the graph carries them over
unchanged or adds to them. -/

namespace Sys2Proof.Machine

open Sys2Proof.Safety

/-- In every phase but FAULTED, and all that is known right after reset. -/
structure Sound (s : State) : Prop where
  params : s.params.wf = true
  bench  : s.bench = []
  memory : Memory.wf s.buf
  clean  : s.faultCode = 0 ∧ s.faultState = 0 ∧ s.faultIdx = 0

/-- Once S_ARM_CLEAR has run: the buffer holds the payload and 0x00 after it (10_state.md R26, R27). -/
structure Armed (s : State) : Prop extends Sound s where
  padding : ∀ k, s.payLen.toNat ≤ k → k < 127 → Memory.read s.buf k = some 0
  payload : ∀ k, k < s.payLen.toNat → Memory.read s.buf k ≠ none
  payMax  : s.payLen.toNat ≤ 125

/-- Before the copy and on an error: no payload (R201). -/
structure Listening (s : State) : Prop extends Armed s where
  noPayload : s.payLen = 0

/-- FRAME_GOOD, past the length and the copy (R194 to R197). -/
structure Received (s : State) : Prop extends Armed s where
  isGood : s.status &&& s.params.goodMask ≠ 0
  field  : s.frameLen &&& s.params.rxlenMask = s.frameLen
  copied : s.payLen.toNat = if 2 < s.frameLen.toNat ∧ s.frameLen.toNat ≤ 127 then s.frameLen.toNat - 2 else 0

/-- FRAME_GOOD, past the diagnostics: the window is set (41_cir_window_extractor.md R140). -/
structure Reporting (s : State) : Prop extends Received s where
  window : s.fp.toNat = fpOf s.fpRaw ∧ s.winStart.toNat = startOf s.fp.toNat ∧ s.winEnd.toNat = stopOf s.fp.toNat

/-- The sample registers hold a decoded sample and its magnitude (10_state.md R32, R33). -/
def HoldsSample (s : State) : Prop :=
  ∃ a b : Int, -131072 ≤ a ∧ a ≤ 131071 ∧ -131072 ≤ b ∧ b ≤ 131071
    ∧ s.re.toInt = a ∧ s.im.toInt = b ∧ s.magMilli.toNat = magOf a b

/-- The index is in the window (10_state.md R31). -/
def InWindow (s : State) : Prop := s.winStart.toNat ≤ s.idx.toNat ∧ s.idx.toNat ≤ s.winEnd.toNat

/-- What the invariant says past S_ARM_CLEAR and outside FAULTED, phase by phase. Where the state code is known, the parts
about other codes are filled in. -/
structure PhaseFacts (s : State) : Prop where
  listening : Between s 1 4 ∨ s.st = 0xC → Listening s := by simp [Between, *]
  isGood    : Between s 3 4 → s.status &&& s.params.goodMask ≠ 0 := by simp [Between, *]
  field     : Between s 4 4 → s.frameLen &&& s.params.rxlenMask = s.frameLen := by simp [Between, *]
  copying   : s.st = 0x4 → 2 < s.frameLen.toNat ∧ s.frameLen.toNat ≤ 127 := by simp [*]
  isError   : s.st = 0xC → s.status &&& s.params.goodMask = 0 ∧ s.status &&& s.params.errMask ≠ 0 := by simp [*]
  received  : Between s 5 5 → Received s := by simp [Between, *]
  reporting : Between s 6 11 → Reporting s := by simp [Between, *]
  visiting  : Between s 8 9 → InWindow s := by simp [Between, *]
  sample    : s.st = 0x9 → HoldsSample s := by simp [*]
  visited   : Between s 10 11 → s.idx.toNat = s.winEnd.toNat + 1 := by simp [Between, *]

variable {s t : State}

/-! ### From the invariant to the phase -/

/-- A range of state codes, cut after a code. -/
theorem between_cut (mid : Nat) {lo hi : Nat} (h : Between s lo hi) : Between s lo mid ∨ Between s (mid + 1) hi := by
  unfold Between at *
  omega

theorem between_mono {lo hi lo' hi' : Nat} (h : Between s lo hi) (hl : lo' ≤ lo) (hh : hi ≤ hi') : Between s lo' hi' :=
  ⟨hl.trans h.1, h.2.trans hh⟩

theorem sound_of_inv (h : Inv s) (hst : s.st ≠ 0xD) : Sound s := ⟨h.params, h.bench, h.memory, h.clean hst⟩

theorem armed_of_inv (h : Inv s) (hb : Between s 1 12) : Armed s :=
  have h0 : s.st ≠ 0x0 := fun hst => absurd (hst ▸ hb.1) (by decide)
  have hD : s.st ≠ 0xD := fun hst => absurd (hst ▸ hb.2) (by decide)
  { sound_of_inv h hD with padding := h.padding h0, payload := h.payload h0, payMax := h.payMax h0 }

theorem listening_of_inv (h : Inv s) (hb : Between s 1 4) : Listening s :=
  { armed_of_inv h (between_mono hb (by decide) (by decide)) with noPayload := h.noPayload (Or.inl hb) }

theorem received_of_inv (h : Inv s) (hb : Between s 5 11) : Received s :=
  { armed_of_inv h (between_mono hb (by decide) (by decide)) with
    isGood := h.isGood (between_mono hb (by decide) (by decide))
    field := h.field (between_mono hb (by decide) (by decide))
    copied := h.copied hb }

theorem reporting_of_inv (h : Inv s) (hb : Between s 6 11) : Reporting s :=
  { received_of_inv h (between_mono hb (by decide) (by decide)) with window := h.window hb }

/-! ### From the phase to the invariant -/

/-- What is known of the phase is all that the invariant says. -/
theorem inv_of_phaseFacts (h : Armed s) (hb : Between s 1 12) (hp : PhaseFacts s) : Inv s :=
  have hreceived (hst : Between s 5 11) : Received s :=
    (between_cut 5 hst).elim hp.received fun hst => (hp.reporting hst).toReceived
  { params := h.params
    bench := h.bench
    memory := h.memory
    code := hb.2.trans (by decide)
    clean := fun _ => h.clean
    faulted := fun hst => absurd (hst ▸ hb.2) (by decide)
    padding := fun _ => h.padding
    payload := fun _ => h.payload
    payMax := fun _ => h.payMax
    noPayload := fun hst => (hp.listening hst).noPayload
    copying := hp.copying
    copied := fun hst => (hreceived hst).copied
    field := fun hst => (between_cut 4 hst).elim hp.field fun hst => (hreceived hst).field
    isGood := fun hst => (between_cut 4 hst).elim hp.isGood fun hst => (hreceived hst).isGood
    isError := hp.isError
    window := fun hst => (hp.reporting hst).window
    visiting := hp.visiting
    visited := hp.visited
    sample := hp.sample }

theorem inv_of_sound (h : Sound s) (hst : s.st = 0x0) : Inv s := by
  constructor
  case params => exact h.params
  case bench => exact h.bench
  case memory => exact h.memory
  case clean => exact fun _ => h.clean
  all_goals simp [Between, hst]

/-- Fault entry keeps what is known of the buffer, and records a row of R231 (60_exceptions.md R233, R236). -/
theorem inv_of_faulted (h : Armed s) {c : Code} (hrow : FaultRow c s.st) : Inv (s.raiseFault c) := by
  constructor
  case params => exact h.params
  case bench => exact h.bench
  case memory => exact h.memory
  case padding => exact fun _ => h.padding
  case payload => exact fun _ => h.payload
  case payMax => exact fun _ => h.payMax
  case faulted => exact fun _ => ⟨hrow, fun hc => if_neg hc⟩
  all_goals simp [Between]

theorem inv_of_listening (h : Listening s) (hst : s.st = 0x1 ∨ s.st = 0x2) : Inv s := by
  rcases hst with hst | hst <;>
    exact inv_of_phaseFacts h.toArmed (by simp [Between, hst]) { listening := fun _ => h }

theorem inv_of_good (h : Listening s) (hst : s.st = 0x3) (hgood : s.status &&& s.params.goodMask ≠ 0) : Inv s :=
  inv_of_phaseFacts h.toArmed (by simp [Between, hst]) { listening := fun _ => h, isGood := fun _ => hgood }

theorem inv_of_error (h : Listening s) (hst : s.st = 0xC) (hgood : s.status &&& s.params.goodMask = 0)
    (herror : s.status &&& s.params.errMask ≠ 0) : Inv s :=
  inv_of_phaseFacts h.toArmed (by simp [Between, hst]) { listening := fun _ => h, isError := fun _ => ⟨hgood, herror⟩ }

theorem inv_of_copying (h : Listening s) (hst : s.st = 0x4) (hgood : s.status &&& s.params.goodMask ≠ 0)
    (hfield : s.frameLen &&& s.params.rxlenMask = s.frameLen)
    (hfits : 2 < s.frameLen.toNat ∧ s.frameLen.toNat ≤ 127) : Inv s :=
  inv_of_phaseFacts h.toArmed (by simp [Between, hst])
    { listening := fun _ => h, isGood := fun _ => hgood, field := fun _ => hfield, copying := fun _ => hfits }

theorem inv_of_received (h : Received s) (hst : s.st = 0x5) : Inv s :=
  inv_of_phaseFacts h.toArmed (by simp [Between, hst]) { received := fun _ => h }

theorem inv_of_reporting (h : Reporting s) (hst : s.st = 0x6 ∨ s.st = 0x7) : Inv s := by
  rcases hst with hst | hst <;>
    exact inv_of_phaseFacts h.toArmed (by simp [Between, hst]) { reporting := fun _ => h }

theorem inv_of_visiting (h : Reporting s) (hst : s.st = 0x8) (hidx : InWindow s) : Inv s :=
  inv_of_phaseFacts h.toArmed (by simp [Between, hst]) { reporting := fun _ => h, visiting := fun _ => hidx }

theorem inv_of_printing (h : Reporting s) (hst : s.st = 0x9) (hidx : InWindow s) (hsample : HoldsSample s) : Inv s :=
  inv_of_phaseFacts h.toArmed (by simp [Between, hst])
    { reporting := fun _ => h, visiting := fun _ => hidx, sample := fun _ => hsample }

theorem inv_of_visited (h : Reporting s) (hst : s.st = 0xA ∨ s.st = 0xB) (hidx : s.idx.toNat = s.winEnd.toNat + 1) :
    Inv s := by
  rcases hst with hst | hst <;>
    exact inv_of_phaseFacts h.toArmed (by simp [Between, hst]) { reporting := fun _ => h, visited := fun _ => hidx }

end Sys2Proof.Machine
end

section
/-! SUPPORT. Each edge of the graph carries the phase over (43_receive_state_machine.md R191 to R200). -/

namespace Sys2Proof.Machine

open Sys2Proof.Safety

variable {s t : State}

/-! ### The operands of the edges -/

theorem copyTaken_iff (n : Nat) : copyTaken n = true ↔ 2 < n ∧ n ≤ 127 := by
  simp [copyTaken, Config.rxBufCap, Config.trailerLen, and_comm]

/-- No decoded sample has a magnitude above 185363.800 (41_cir_window_extractor.md R146). -/
theorem magOf_le {a b : Int} (ha : -131072 ≤ a ∧ a ≤ 131071) (hb : -131072 ≤ b ∧ b ≤ 131071) :
    magOf a b ≤ maxMagMilli := by
  have hsq {x : Int} (hx : -131072 ≤ x ∧ x ≤ 131071) : x * x ≤ 17179869184 := by nlinarith
  have hn : 1000000 * sumsq a b ≤ 34359738368000000 := by
    have := hsq ha; have := hsq hb
    unfold sumsq; omega
  have hq : isqrt (1000000 * sumsq a b) ≤ maxMagMilli := by
    rw [isqrt_eq_sqrt, ← Nat.lt_succ_iff, Nat.sqrt_lt']
    exact hn.trans_lt (by decide)
  simp only [magOf]
  split
  · exact hq
  next hup =>
    refine Nat.succ_le_of_lt (lt_of_le_of_ne hq fun heq => hup ?_)
    rw [heq, maxMagMilli]
    omega

theorem reOf_range (q : Record) : -131072 ≤ reOf q ∧ reOf q ≤ 131071 := by
  have := q.b1.isLt; have := q.b2.isLt
  exact fieldValue_range (by omega)

theorem imOf_range (q : Record) : -131072 ≤ imOf q ∧ imOf q ≤ 131071 := by
  have := q.b4.isLt; have := q.b5.isLt
  exact fieldValue_range (by omega)

/-- What S_EXT_READ writes is a sample as the decoder gives it, and its magnitude. -/
theorem holdsSample_of_record (q : Record) (hre : s.re = toS32 (reOf q)) (him : s.im = toS32 (imOf q))
    (hmag : s.magMilli = BitVec.ofNat 28 (magOf (reOf q) (imOf q))) : HoldsSample s := by
  have hr := reOf_range q
  have hi := imOf_range q
  refine ⟨reOf q, imOf q, hr.1, hr.2, hi.1, hi.2, hre ▸ toS32_toInt hr, him ▸ toS32_toInt hi, ?_⟩
  rw [hmag, BitVec.toNat_ofNat, Nat.mod_eq_of_lt ((magOf_le hr hi).trans_lt (by decide))]

/-- The window of a report is not empty and ends below `ACC_CAP` (R143). -/
theorem window_of_reporting (h : Reporting s) : s.winStart.toNat ≤ s.winEnd.toNat ∧ s.winEnd.toNat ≤ 1023 := by
  obtain ⟨hfp, hstart, hend⟩ := h.window
  have hle := fpOf_le s.fpRaw
  unfold startOf at hstart
  unfold stopOf at hend
  omega

/-! ### The edges that change what is known of the buffer -/

/-- S_ARM_CLEAR (R191). -/
theorem listening_armClear (h : Sound s) : Listening { s with buf := Memory.cleared, payLen := 0, st := 0x1 } :=
  { h with
    memory := Memory.cleared_wf
    padding := fun k _ hk => (Memory.read_cleared k).trans (if_pos hk)
    payload := fun k hk => absurd hk (Nat.not_lt_zero k)
    payMax := Nat.zero_le _
    noPayload := rfl }

/-- S_GOOD_COPY (R197) fills a cleared buffer with the payload. -/
theorem received_goodCopy {w : BitVec 64} {n : BitVec 16} {bs : List Byte} {m : Memory} {rest : List Response}
    (h : Listening s) (hgood : s.status &&& s.params.goodMask ≠ 0)
    (hfield : s.frameLen &&& s.params.rxlenMask = s.frameLen) (hfits : 2 < s.frameLen.toNat ∧ s.frameLen.toNat ≤ 127)
    (hn : payloadLen s.frameLen = some n) (hlen : bs.length = n.toNat) (hm : Memory.writeBytes s.buf 0 bs = some m) :
    Received { s.answered w (.bytes bs) rest with buf := m, payLen := n.setWidth 8, st := 0x5 } := by
  obtain ⟨hframe, -⟩ := payloadLen_some hn
  have hpay : (n.setWidth 8).toNat = n.toNat := by rw [BitVec.toNat_setWidth]; omega
  have hold (k : Nat) (hk : k < 127) : Memory.read s.buf k = some 0 :=
    h.padding k (by rw [h.noPayload]; exact Nat.zero_le k) hk
  have hread := Memory.read_writeBytes hm
  refine { h.toSound with
    memory := Memory.writeBytes_wf hm h.memory, isGood := hgood, field := hfield
    padding := ?padding, payload := ?payload, payMax := ?payMax, copied := ?copied }
  case padding =>
    intro k hlo hhi
    have hlo : n.toNat ≤ k := hpay ▸ hlo
    exact (hread k).trans ((if_neg (by omega)).trans (hold k hhi))
  case payload =>
    intro k hk
    have hk : k < bs.length := by rw [hlen]; exact hpay ▸ hk
    have hval := (hread k).trans (if_pos (by omega))
    simp [hval, hk]
  case payMax => exact hpay.trans_le (by omega)
  case copied =>
    have hn2 : n.toNat = s.frameLen.toNat - 2 := by omega
    exact (hpay.trans hn2).trans (if_pos hfits).symm

/-- S_GOOD_LEN (R195, R196): a length that does not fit leaves no payload. -/
theorem received_goodLen {w : BitVec 64} {v : Word32} {rest : List Response} (h : Listening s)
    (hgood : s.status &&& s.params.goodMask ≠ 0)
    (hfits : ¬ (2 < (v &&& s.params.rxlenMask).toNat ∧ (v &&& s.params.rxlenMask).toNat ≤ 127)) :
    Received { s.answered w (.word v) rest with frameLen := v &&& s.params.rxlenMask, st := 0x5 } :=
  { h with
    isGood := hgood
    field := by simp [BitVec.and_assoc]
    copied := by
      have hzero : s.payLen.toNat = 0 := by rw [h.noPayload]; rfl
      exact hzero.trans (if_neg hfits).symm }

/-! ### Every edge -/

/-- S_POLL (R193): each class has its phase. -/
theorem inv_poll {v : Word32} {w : BitVec 64} {rest : List Response} (h : Listening s) :
    Inv { s.answered w (.word v) rest with status := v, st := pollTarget (classOf s.params v) } := by
  unfold classOf
  split
  next hgood => exact inv_of_good { h with } rfl hgood
  next hgood =>
    split
    next herror => exact inv_of_error { h with } rfl (not_not.1 hgood) herror
    next => exact inv_of_listening { h with } (Or.inr rfl)

/-- S_GOOD_LEN (R195, R196). -/
theorem inv_goodLen {v : Word32} {w : BitVec 64} {rest : List Response} (h : Listening s)
    (hgood : s.status &&& s.params.goodMask ≠ 0) :
    Inv { s.answered w (.word v) rest with
      frameLen := v &&& s.params.rxlenMask
      st := if copyTaken (v &&& s.params.rxlenMask).toNat then 0x4 else 0x5 } := by
  simp only [copyTaken_iff]
  split
  next hfits => exact inv_of_copying { h with } rfl hgood (by simp [BitVec.and_assoc]) hfits
  next hfits => exact inv_of_received (received_goodLen h hgood hfits) rfl

/-- S_REP_BEGIN (42_diagnostics_framer.md R172): the window of a report is never empty. -/
theorem inv_repBegin (h : Reporting s) :
    Inv { emitted s beginLine with
      idx := s.winStart.setWidth 11, st := if s.winStart.toNat ≤ s.winEnd.toNat then 0x8 else 0xA } := by
  obtain ⟨hle, -⟩ := window_of_reporting h
  have hidx : (s.winStart.setWidth 11).toNat = s.winStart.toNat := by
    rw [BitVec.toNat_setWidth]; have := s.winStart.isLt; omega
  rw [if_pos hle]
  exact inv_of_visiting { h with } rfl ⟨hidx.ge, hidx.trans_le hle⟩

/-- S_EXT_EMIT (41_cir_window_extractor.md R149): the index moves on, or past the window. -/
theorem inv_extEmit {bs : List Byte} (h : Reporting s) (hidx : InWindow s) :
    Inv { bumpIdx (emitted s bs) with st := if s.idx.toNat + 1 ≤ s.winEnd.toNat then 0x8 else 0xA } := by
  obtain ⟨hlo, hhi⟩ := hidx
  obtain ⟨-, hcap⟩ := window_of_reporting h
  have hnext : (bumpIdx (emitted s bs)).idx.toNat = s.idx.toNat + 1 :=
    bumpIdx_idx (emitted s bs) (by show s.idx.toNat < 2047; omega)
  have hreport (c : Code) : Reporting { bumpIdx (emitted s bs) with st := c } := by
    rw [bumpIdx_eq]
    exact { h with }
  split
  next hin =>
    refine inv_of_visiting (hreport _) rfl ⟨?_, ?_⟩
    · simp only [bumpIdx_winStart, hnext]; exact hlo.trans (Nat.le_succ _)
    · simp only [bumpIdx_winEnd, hnext]; exact hin
  next hout =>
    refine inv_of_visited (hreport _) (Or.inl rfl) ?_
    simp only [bumpIdx_winEnd, hnext]
    show s.idx.toNat + 1 = s.winEnd.toNat + 1
    omega

/-- A completed operation keeps the invariant. -/
theorem inv_of_completes (hi : Inv s) (h : Completes s t) : Inv t := by
  cases h with
  | armClear hst => exact inv_of_listening (listening_armClear (sound_of_inv hi (by simp [hst]))) (Or.inl rfl)
  | armReq rest hst hr =>
    have h := listening_of_inv hi (by simp [Between, hst])
    exact inv_of_listening { h with } (Or.inr rfl)
  | poll v rest hst hr => exact inv_poll (listening_of_inv hi (by simp [Between, hst]))
  | goodLen v rest hst hr =>
    exact inv_goodLen (listening_of_inv hi (by simp [Between, hst])) (hi.isGood (by simp [Between, hst]))
  | goodCopy n bs m rest hst hn hsize hr hlen hm =>
    exact inv_of_received (received_goodCopy (listening_of_inv hi (by simp [Between, hst]))
      (hi.isGood (by simp [Between, hst])) (hi.field (by simp [Between, hst])) (hi.copying hst) hn hlen hm) rfl
  | goodDiag raw other rest hst hr =>
    have h := received_of_inv hi (by simp [Between, hst])
    exact inv_of_reporting
      { h with window := ⟨substFp_toNat raw, windowStart_toNat (substFp raw), windowEnd_toNat (substFp raw)⟩ }
      (Or.inl rfl)
  | repMeta hst hh =>
    have h := reporting_of_inv hi (by simp [Between, hst])
    exact inv_of_reporting { h with } (Or.inr rfl)
  | repBegin hst hh => exact inv_repBegin (reporting_of_inv hi (by simp [Between, hst]))
  | extRead q rest hst hr =>
    have h := reporting_of_inv hi (by simp [Between, hst])
    exact inv_of_printing { h with } rfl (hi.visiting (by simp [Between, hst])) (holdsSample_of_record q rfl rfl rfl)
  | extEmit hst hh =>
    exact inv_extEmit (reporting_of_inv hi (by simp [Between, hst])) (hi.visiting (by simp [Between, hst]))
  | repEnd hst hh =>
    have h := reporting_of_inv hi (by simp [Between, hst])
    exact inv_of_visited { h with } (Or.inr rfl) (hi.visited (by simp [Between, hst]))
  | goodClr rest hst hr =>
    have h := sound_of_inv hi (by simp [hst])
    exact inv_of_sound { h with } rfl
  | errClr rest hst hr =>
    have h := sound_of_inv hi (by simp [hst])
    exact inv_of_sound { h with } rfl

/-- The fault rows are those of codes past S_ARM_CLEAR. -/
theorem between_of_faultRow {c : Code} (h : FaultRow c s.st) : Between s 1 12 := by
  rcases h with h | h | h | h | h | h | h | h <;> simp [Between, h.2]

/-- A step of the block itself keeps the invariant. -/
theorem inv_of_blockStep (hi : Inv s) (h : BlockStep s t) : Inv t := by
  cases h with
  | stopped => exact hi
  | waits => exact hi
  | badState hst => exact absurd (hst.trans hi.code) (by decide)
  | faults w c rest hrow hr =>
    have h := armed_of_inv hi (between_of_faultRow hrow)
    have h : Armed (s.answered w .fault rest) := { h with }
    exact inv_of_faulted h hrow
  | completes h => exact inv_of_completes hi h

end Sys2Proof.Machine
end

section
/-! SUPPORT. A completed operation on the successor graph (10_state.md R22). -/

namespace Sys2Proof.Machine

open Sys2Proof.Safety

variable {s t : State}

/-- A completed operation was not waiting: its response was there, or the sink took its line. -/
theorem not_waiting_of_completes (h : Completes s t) : ¬ Waiting s := by
  cases h <;> simp [Waiting, Requesting, Emitting, *]

theorem pollTarget_cases (c : StatusClass) : pollTarget c = 0x2 ∨ pollTarget c = 0x3 ∨ pollTarget c = 0xC := by
  cases c <;> simp [pollTarget]

/-- A completed operation follows an edge of the graph. -/
theorem successor_of_completes (h : Completes s t) : Successor s.st t.st := by
  cases h with
  | poll v rest hst hr => simpa [Successor, hst] using pollTarget_cases (classOf s.params v)
  | goodLen v rest hst hr => simp only [Successor, hst]; split <;> simp
  | repBegin hst hh => simp only [Successor, hst]; split <;> simp
  | extEmit hst hh => simp only [Successor, hst]; split <;> simp
  | _ => simp [Successor, *]

end Sys2Proof.Machine
end

section
/-! SUPPORT. The registers that no row reads (10_state.md R26 to R28; 90_conflicts.md C1). -/

namespace Sys2Proof.Machine

open Sys2Proof.Safety

/-- `s` with other values in the three registers. -/
def State.withUnread (s : State) (b : Memory) (n : BitVec 8) (f : BitVec 16) : State :=
  { s with buf := b, payLen := n, fpRaw := f }

@[simp] theorem State.withUnread_responses (s : State) (b : Memory) (n : BitVec 8) (f : BitVec 16) :
    (s.withUnread b n f).responses = s.responses := rfl
@[simp] theorem State.withUnread_sinkHold (s : State) (b : Memory) (n : BitVec 8) (f : BitVec 16) :
    (s.withUnread b n f).sinkHold = s.sinkHold := rfl
@[simp] theorem State.withUnread_frameLen (s : State) (b : Memory) (n : BitVec 8) (f : BitVec 16) :
    (s.withUnread b n f).frameLen = s.frameLen := rfl

/-- An operation whose answer does not depend on the three registers, those three apart. -/
def Blind (g : State → Result) : Prop :=
  ∀ (s : State) (b : Memory) (n : BitVec 8) (f : BitVec 16), SameButUnread (g s) (g (s.withUnread b n f))

variable {α : Type} {w : BitVec 64} {take : Response → Option α} {c : Code} {k : α → State → Result}
  {s t t' : State} {b : Memory} {n : BitVec 8} {f : BitVec 16}

theorem sameButUnread_next (h : eraseUnread t = eraseUnread t') : SameButUnread (.next t) (.next t') := h

/-- A transaction reads the responses only, so it is blind where the rest of the step is. -/
theorem sameButUnread_transact (hk : ∀ a, Blind (k a)) :
    SameButUnread (transact w take c s k) (transact w take c (s.withUnread b n f) k) := by
  cases hr : s.responses with
  | nil =>
    rw [transact_wait hr, transact_wait ((s.withUnread_responses b n f).trans hr)]
    exact sameButUnread_next rfl
  | cons r rest =>
    by_cases hf : r = .fault
    · subst hf
      rw [transact_fault hr, transact_fault ((s.withUnread_responses b n f).trans hr)]
      exact sameButUnread_next rfl
    · cases ha : take r with
      | none =>
        rw [transact_bad hr hf ha, transact_bad ((s.withUnread_responses b n f).trans hr) hf ha]
        exact rfl
      | some a =>
        rw [transact_ok hr hf ha, transact_ok ((s.withUnread_responses b n f).trans hr) hf ha]
        exact hk a (s.answered w r rest) b n f

/-- An emission reads the sink's level only, so it is blind where the rest of the step is. -/
theorem sameButUnread_emit {bs : List Byte} {g : State → Result} (hg : Blind g) :
    SameButUnread (emit bs s g) (emit bs (s.withUnread b n f) g) := by
  cases hh : s.sinkHold with
  | true =>
    rw [emit_hold hh, emit_hold ((s.withUnread_sinkHold b n f).trans hh)]
    exact sameButUnread_next rfl
  | false =>
    rw [emit_free hh, emit_free ((s.withUnread_sinkHold b n f).trans hh)]
    exact hg (emitted s bs) b n f

/-- The same test on both sides of an `if`. -/
theorem sameButUnread_ite {p : Prop} [Decidable p] {x y x' y' : Result} (hx : SameButUnread x x')
    (hy : SameButUnread y y') : SameButUnread (if p then x else y) (if p then x' else y') := by
  split
  · exact hx
  · exact hy

/-! ### The rows on their own -/

theorem sameButUnread_requestAlone :
    SameButUnread (requestAlone w take c s) (requestAlone w take c (s.withUnread b n f)) := by
  have htaken : SameButUnread (transact w take c s.taken fun _ t => .next t)
      (transact w take c (s.taken.withUnread b n f) fun _ t => .next t) :=
    sameButUnread_transact fun _ _ _ _ _ => sameButUnread_next rfl
  exact sameButUnread_ite (sameButUnread_next rfl) htaken

theorem sameButUnread_lineAlone {bs : List Byte} :
    SameButUnread (lineAlone bs s) (lineAlone bs (s.withUnread b n f)) := by
  have htaken : SameButUnread (emit bs s.taken .next) (emit bs (s.taken.withUnread b n f) .next) :=
    sameButUnread_emit fun _ _ _ _ => sameButUnread_next rfl
  exact sameButUnread_ite (sameButUnread_next rfl) htaken

theorem blind_execWriteClear32 (mask : Word32) : Blind (execWriteClear32 mask) := by
  intro s b n f
  have hfree : SameButUnread
      (requestAlone (clearWord mask) takeAck (clearCode s mask) { s with freeCount := s.freeCount + 1 })
      (requestAlone (clearWord mask) takeAck (clearCode s mask)
        ({ s with freeCount := s.freeCount + 1 }.withUnread b n f)) := sameButUnread_requestAlone
  exact sameButUnread_ite (sameButUnread_next rfl) (sameButUnread_ite sameButUnread_requestAlone hfree)

theorem blind_execReadRxData (len : BitVec 16) : Blind (execReadRxData len) := fun _ _ _ _ =>
  sameButUnread_ite rfl (sameButUnread_ite rfl sameButUnread_requestAlone)

/-! ### The operations that do more than copy registers -/

/-- S_GOOD_COPY writes the buffer, but whether its bytes have addresses depends on their number alone. -/
theorem blind_execSGoodCopy : Blind execSGoodCopy := by
  intro s b n f
  simp only [execSGoodCopy, State.withUnread_frameLen]
  cases payloadLen s.frameLen with
  | none => exact rfl
  | some len =>
    refine sameButUnread_ite rfl (sameButUnread_transact fun bs u b n f => ?_)
    rcases Nat.lt_or_ge Config.rxBufCap bs.length with hlong | hfits
    · have hnone (m : Memory) := Memory.writeBytes_none m 0 bs (by omega) (Nat.zero_le _)
      simp only [hnone]
      exact rfl
    · obtain ⟨m, hm⟩ := Memory.writeBytes_isSome u.buf 0 bs (by omega)
      obtain ⟨m', hm'⟩ := Memory.writeBytes_isSome (u.withUnread b n f).buf 0 bs (by omega)
      simp only [hm, hm']
      exact sameButUnread_next rfl

theorem bumpIdx_withUnread : bumpIdx (s.withUnread b n f) = (bumpIdx s).withUnread b n f := by
  by_cases h : s.idx.toNat + 1 < 2048 <;> simp [bumpIdx, State.withUnread, h]

theorem blind_execSExtEmit : Blind execSExtEmit := by
  intro s b n f
  refine sameButUnread_emit fun u b n f => ?_
  rw [bumpIdx_withUnread]
  exact sameButUnread_next rfl

/-- No row of the table reads the three registers. -/
theorem blind_exec (i : Instr) : Blind (exec i) := by
  intro s b n f
  cases i with
  | sArmClear | sFault | sReserved low | accRecord x => exact sameButUnread_next rfl
  | sArmReq | sPoll | sGoodLen | sGoodDiag | sExtRead | sGoodClr | sErrClr =>
    simp only [exec, execSArmReq, execSPoll, execSGoodLen, execSGoodDiag, execSExtRead, execSGoodClr, execSErrClr]
    refine sameButUnread_transact fun _ _ _ _ _ => ?_
    exact sameButUnread_next rfl
  | sGoodCopy => exact blind_execSGoodCopy s b n f
  | sRepMeta | sRepBegin | sRepEnd =>
    simp only [exec, execSRepMeta, execSRepBegin, execSRepEnd]
    refine sameButUnread_emit fun _ _ _ _ => ?_
    exact sameButUnread_next rfl
  | sExtEmit => exact blind_execSExtEmit s b n f
  | armRx | readReg32Status | readReg32Rxinfo | readAcc index | readDiag => exact sameButUnread_requestAlone
  | writeClear32 mask => exact blind_execWriteClear32 mask s b n f
  | readRxData len => exact blind_execReadRxData len s b n f
  | tlmCirMeta fp start stop | tlmFrameBegin | tlmCir index real imag mag | tlmFrameEnd =>
    exact sameButUnread_lineAlone

end Sys2Proof.Machine
end

section
/-! SUPPORT. A placed table word is what the next step runs (log 7). -/

namespace Sys2Proof.Machine

theorem decode_of_decodeTableWord {nbits w : Nat} {i : Instr} (h : decodeTableWord nbits w = some i) :
    decode (tableBytes nbits w) = .ok i := by
  unfold decodeTableWord at h
  split at h
  · next hd => rw [hd, Option.some.inj h]
  · nomatch h

/-- A placed state code runs: it is the code that `st` holds. -/
theorem step_placeWord_code {s : State} {b : Byte} {i : Instr} (hp : s.params.wf = true) (hi : decode [b] = .ok i) :
    step (placeWord s [b]) = exec i (placeWord s [b]) := by
  have hrun : Safety.Running (placeWord s [b]) :=
    ⟨(congrArg Config.Params.wf (State.setReset_params s false)).trans hp, State.setReset_rstIn s false, rfl⟩
  simp only [decode] at hi
  split at hi
  · nomatch hi
  · obtain rfl := Except.ok.inj hi
    exact step_running hrun

theorem placeWord_boundary (s : State) {bs : List Byte} (h : bs.length ≠ 1) :
    placeWord s bs = { s.setReset false with
      bench := bs, st := if (s.setReset false).st = 0xD then 0x0 else (s.setReset false).st } := by
  match bs, h with
  | [], _ => rfl
  | [b], h => exact absurd rfl h
  | _ :: _ :: _, _ => rfl

/-- Any other placed word runs: it stands at the boundary of a block that is not in FAULTED. -/
theorem step_placeWord_boundary {s : State} {bs : List Byte} {i : Instr} (hp : s.params.wf = true)
    (hlen : bs.length ≠ 1) (hi : decode bs = .ok i) : step (placeWord s bs) = exec i (placeWord s bs) := by
  rw [decode_boundary hlen] at hi
  have hne : bs ≠ [] := by rintro rfl; simp [decodeBoundary] at hi
  rw [placeWord_boundary s hlen]
  refine step_bench (by simpa using hp) (by simp) ?_ hne hi
  dsimp only
  split
  · decide
  next hd => exact hd

end Sys2Proof.Machine
end

section
/-! PROOFS. The statements of 10_state.md: O47, O5, O48, O51, O53, O1, O6 and O46. -/

namespace Sys2Proof.Machine

open Sys2Proof.Safety

/-- Settles O46: right after reset only the parameters and the empty record are known, whatever the draw. -/
theorem invariantAtReset : Obligations.InvariantAtReset := fun _ _ hp =>
  inv_of_sound ⟨hp, rfl, Memory.nil_wf, rfl, rfl, rfl⟩ rfl

/-- Settles O47: a reset leaves the reset state but for inputs; any other step is one of `BlockStep`. -/
theorem stepKeepsTheInvariant : Obligations.StepKeepsTheInvariant := by
  intro s t hi ht
  by_cases hr : s.rstIn = true
  · obtain rfl := Host.Outcome.next.inj ((step_reset hi.params hr).symm.trans ht)
    exact inv_of_sound ⟨hi.params, rfl, Memory.nil_wf, rfl, rfl, rfl⟩ rfl
  · exact inv_of_blockStep hi (step_blockStep ⟨hi.params, Bool.eq_false_iff.2 hr, hi.bench⟩ ht)

/-- Settles O48: a hold, a fault entry and a completed operation are the statement's cases, one by one. -/
theorem stepsFollowTheGraph : Obligations.StepsFollowTheGraph := by
  intro s t hrun ht
  cases step_blockStep hrun ht with
  | stopped hst => exact Or.inl ⟨hst, rfl⟩
  | waits hw => exact Or.inr (Or.inl ⟨hw, rfl⟩)
  | badState hst => exact Or.inr (Or.inr (Or.inl ⟨Or.inr hst, rfl⟩))
  | faults w c rest hrow hr => exact Or.inr (Or.inr (Or.inl ⟨Or.inl (requesting_of_faultRow hrow), rfl⟩))
  | completes h => exact Or.inr (Or.inr (Or.inr ⟨not_waiting_of_completes h, successor_of_completes h⟩))

/-- Settles O51: a hold writes nothing, fault entry only the fault registers and `st`, and each completed operation the
registers its row of `Completes` names. -/
theorem registerWriters : Obligations.RegisterWriters := by
  intro s t hrun ht
  cases step_blockStep hrun ht with
  | stopped => simp
  | waits => simp
  | badState => simp
  | faults => simp
  | completes h => cases h <;> simp [emitted, *]

/-- Settles O53: row by row, each transaction, emission and test reads other registers only. -/
theorem unreadRegistersDoNotMatter : Obligations.UnreadRegistersDoNotMatter := fun i => blind_exec i

/-- Settles O1: the record update of R43, field by field. -/
theorem resetLeavesTheGivenValues : Obligations.ResetLeavesTheGivenValues := fun _ _ =>
  ⟨rfl, rfl, rfl, rfl, rfl, rfl, powerOn, exampleParams, rfl⟩

/-- Settles O5: a state code is one byte and goes to `st`, any other row's bytes go to the boundary. -/
theorem placedWordRunsNext : Obligations.PlacedWordRunsNext := by
  intro s nbits w i hp hi
  have hd := decode_of_decodeTableWord hi
  unfold State.withFetchWord
  by_cases hlen : (tableBytes nbits w).length = 1
  · obtain ⟨b, hb⟩ := List.length_eq_one_iff.1 hlen
    rw [hb] at hd ⊢
    exact step_placeWord_code hp hd
  · exact step_placeWord_boundary hp hlen hd

/-- Settles O6: the decoder is run on each word. -/
theorem wordsOfTheTablesDecode : Obligations.WordsOfTheTablesDecode := by
  unfold Obligations.WordsOfTheTablesDecode
  decide

end Sys2Proof.Machine
end

section
/-! SUPPORT. What holds without an answer of the port, and what one step puts out (20_memory.md R60, R68, R69). -/

namespace Sys2Proof.Machine

open Sys2Proof.Safety

variable {s t : State}

/-! ### Without a response -/

/-- WRITE_CLEAR32 tests for a response before it draws a free code, so a wait leaves the counter of free values. -/
theorem execWriteClear32_wait (mask : Word32) (h : s.responses = []) : execWriteClear32 mask s = .next s := by
  simp only [execWriteClear32, h, List.isEmpty_nil, if_true]

/-- S_GOOD_COPY is a transaction wherever a request carries the length and the receive memory holds it (R197). -/
theorem execSGoodCopy_request {n : BitVec 16} (hn : payloadLen s.frameLen = some n)
    (hmem : n.toNat ≤ s.params.rxmemSize) :
    ∃ k, execSGoodCopy s = transact (rxDataWord n) (takeBytes n.toNat) fPayloadRead s k := by
  simp only [execSGoodCopy, hn, if_neg (Nat.not_lt.2 hmem)]
  exact ⟨_, rfl⟩

theorem execSGoodCopy_wait (h : s.responses = []) (hlo : 2 < s.frameLen.toNat) (hhi : s.frameLen.toNat < 65538)
    (hmem : s.frameLen.toNat - 2 ≤ s.params.rxmemSize) : execSGoodCopy s = .next s := by
  have hn : payloadLen s.frameLen = some (BitVec.ofNat 16 (s.frameLen.toNat - 2)) :=
    payloadLen_eq (by omega) (by omega) (by omega)
  have hlen := (payloadLen_some hn).1
  obtain ⟨k, hk⟩ := execSGoodCopy_request hn (by omega)
  exact hk.trans (transact_wait h)

/-! ### What one step observes and what it keeps -/

/-- From `s` to `t` nothing is observed and no response is taken, or the next response is taken and observed with its
request, or one line is observed. -/
def AtMostOneEvent (s t : State) : Prop :=
  t.trace = s.trace ∧ t.responses = s.responses
  ∨ (∃ w r, s.responses = r :: t.responses ∧ t.trace = s.trace ++ [.request w r])
  ∨ ∃ l, t.responses = s.responses ∧ t.trace = s.trace ++ [.line l]

theorem atMostOneEvent_of_completes (h : Completes s t) : AtMostOneEvent s t := by
  cases h with
  | armClear => exact Or.inl ⟨rfl, rfl⟩
  | armReq _ _ hr | poll _ _ _ hr | goodLen _ _ _ hr | goodCopy _ _ _ _ _ _ _ hr | goodDiag _ _ _ _ hr
  | extRead _ _ _ hr | goodClr _ _ hr | errClr _ _ hr => exact Or.inr (Or.inl ⟨_, _, hr, rfl⟩)
  | repMeta | repBegin | repEnd => exact Or.inr (Or.inr ⟨_, rfl, rfl⟩)
  | extEmit => exact Or.inr (Or.inr ⟨_, bumpIdx_responses _, bumpIdx_trace _⟩)

/-- A held step observes nothing, entering FAULTED from the port takes the FAULT, and from a reserved code nothing. -/
theorem atMostOneEvent_of_blockStep (h : BlockStep s t) : AtMostOneEvent s t := by
  cases h with
  | stopped | waits | badState => exact Or.inl ⟨rfl, rfl⟩
  | faults w c rest _ hr => exact Or.inr (Or.inl ⟨w, .fault, hr, rfl⟩)
  | completes h => exact atMostOneEvent_of_completes h

/-- No step of the block writes a parameter, an input other than the responses, or the boundary. -/
theorem blockStep_inputs (h : BlockStep s t) :
    t.params = s.params ∧ t.sinkHold = s.sinkHold ∧ t.rstIn = s.rstIn ∧ t.rstDraw = s.rstDraw ∧ t.bench = s.bench := by
  cases h with
  | stopped | waits | badState | faults => exact ⟨rfl, rfl, rfl, rfl, rfl⟩
  | completes h => cases h <;> simp [emitted]

end Sys2Proof.Machine
end

section
/-! PROOFS. The statements of 20_memory.md: O52, O30 and O32. -/

namespace Sys2Proof.Machine

open Sys2Proof.Safety

/-- Settles O52: each way a step of the block can go has its events and its frame, and nothing stood at the boundary. -/
theorem oneEventPerStep : Obligations.OneEventPerStep := by
  intro s t hrun ht
  have hstep := step_blockStep hrun ht
  obtain ⟨-, -, hbench⟩ := hrun
  obtain ⟨hparams, hsink, hrst, hdraw, hkept⟩ := blockStep_inputs hstep
  exact ⟨atMostOneEvent_of_blockStep hstep, hparams, hsink, hrst, hdraw, hkept.trans hbench⟩

/-- Settles O30: the operations are `emit` and the rows `lineAlone`, and both test the sink first. -/
theorem heldSinkHolds : Obligations.HeldSinkHolds := by
  intro s h
  simp only [exec]
  exact ⟨emit_hold h, emit_hold h, emit_hold h, emit_hold h, fun _ _ _ => lineAlone_hold h, lineAlone_hold h,
    fun _ _ _ _ => lineAlone_hold h, lineAlone_hold h⟩

/-- Settles O32: the operations are `transact` and the rows `requestAlone`, and both look for a response first. -/
theorem noResponseHolds : Obligations.NoResponseHolds := by
  intro s h
  simp only [exec]
  exact ⟨transact_wait h, transact_wait h, transact_wait h, transact_wait h, transact_wait h, transact_wait h,
    transact_wait h, requestAlone_wait h, requestAlone_wait h, requestAlone_wait h, requestAlone_wait h,
    fun _ => requestAlone_wait h, fun mask => execWriteClear32_wait mask h, execSGoodCopy_wait h,
    fun _ hpos hmem => (execReadRxData_request hpos hmem).trans (requestAlone_wait h)⟩

end Sys2Proof.Machine
end

section
/-! SUPPORT. The spellings of numbers (30_encoding.md R88 to R90), written and read back. -/

namespace Sys2Proof.Machine

/-! ### Digits -/

theorem digit_toNat {d : Nat} (h : d < 10) : (digit d).toNat = 0x30 + d := by
  rw [digit, BitVec.toNat_ofNat]
  omega

theorem isDigit_digit {d : Nat} (h : d < 10) : isDigit (digit d) = true := by
  simp only [isDigit, digit_toNat h, Bool.and_eq_true, decide_eq_true_eq]
  omega

theorem digit_value {d : Nat} (h : d < 10) : (digit d).toNat - 0x30 = d := by
  rw [digit_toNat h]
  omega

/-- Digits, whatever follows them, are read on after the number so far. -/
theorem readDigits_append {ds : List Byte} (h : ∀ b ∈ ds, isDigit b = true) (acc : Nat) (rest : List Byte) :
    readDigits acc (ds ++ rest) = readDigits (readDigits acc ds).1 rest := by
  induction ds generalizing acc with
  | nil => rfl
  | cons d ds ih =>
    rw [List.forall_mem_cons] at h
    simp only [List.cons_append, readDigits, h.1, if_true]
    exact ih h.2 _

theorem readDigits_digit {d : Nat} (h : d < 10) (acc : Nat) (rest : List Byte) :
    readDigits acc (digit d :: rest) = readDigits (acc * 10 + d) rest := by
  simp only [readDigits, isDigit_digit h, if_true, digit_value h]

/-! ### `udec` (R88) -/

/-- Fuel beyond the number of digits does not matter. -/
theorem udecGo_fuel {a b n : Nat} (ha : n < 10 ^ (a + 1)) (hb : n < 10 ^ (b + 1)) : udecGo a n = udecGo b n := by
  induction a generalizing b n with
  | zero =>
    have hn : n < 10 := by simpa using ha
    cases b with
    | zero => rfl
    | succ b => rw [udecGo, udecGo, if_pos hn, Nat.mod_eq_of_lt hn]
  | succ a ih =>
    cases b with
    | zero =>
      have hn : n < 10 := by simpa using hb
      rw [udecGo, udecGo, if_pos hn, Nat.mod_eq_of_lt hn]
    | succ b =>
      rw [Nat.pow_succ] at ha hb
      rw [udecGo, udecGo, ih (b := b) (by omega) (by omega)]

theorem lt_ten_pow_log2 (n : Nat) : n < 10 ^ (n.log2 + 1) :=
  Nat.lt_log2_self.trans_le (Nat.pow_le_pow_left (by decide) _)

theorem udec_of_lt {n : Nat} (h : n < 10) : udec n = [digit n] :=
  udecGo_fuel (b := 0) (lt_ten_pow_log2 n) (by simpa using h) |>.trans (by rw [udecGo, Nat.mod_eq_of_lt h])

theorem udec_of_ge {n : Nat} (h : 10 ≤ n) : udec n = udec (n / 10) ++ [digit (n % 10)] := by
  have hn := lt_ten_pow_log2 n
  have hq : n / 10 < 10 ^ (n.log2 + 1) := (Nat.div_le_self n 10).trans_lt hn
  rw [udec, udecGo_fuel hn (hn.trans (Nat.pow_lt_pow_succ (by decide))), udecGo, if_neg (by omega),
    udecGo_fuel hq (lt_ten_pow_log2 _), udec]

/-- What holds of one digit, and of a spelling with one more digit, holds of every spelling. -/
theorem udec_induction {P : Nat → List Byte → Prop} (one : ∀ d, d < 10 → P d [digit d])
    (more : ∀ n, 10 ≤ n → P (n / 10) (udec (n / 10)) → P n (udec (n / 10) ++ [digit (n % 10)])) (n : Nat) :
    P n (udec n) := by
  induction n using Nat.strongRecOn with
  | ind n ih =>
    by_cases h : n < 10
    · exact udec_of_lt h ▸ one n h
    · have h := Nat.le_of_not_lt h
      exact udec_of_ge h ▸ more n h (ih _ (by omega))

theorem isDigit_of_mem_udec (n : Nat) : ∀ b ∈ udec n, isDigit b = true := by
  refine udec_induction (P := fun _ ds => ∀ b ∈ ds, isDigit b = true) (fun d hd => ?_) (fun n hn ih => ?_) n
  · simpa using isDigit_digit hd
  · rw [List.forall_mem_append, List.forall_mem_singleton]
    exact ⟨ih, isDigit_digit (Nat.mod_lt n (by decide))⟩

theorem readDigits_udec (n : Nat) : readDigits 0 (udec n) = (n, []) := by
  refine udec_induction (P := fun n ds => readDigits 0 ds = (n, [])) (fun d hd => ?_) (fun n hn ih => ?_) n
  · rw [readDigits_digit hd, Nat.zero_mul, Nat.zero_add, readDigits]
  · rw [readDigits_append (isDigit_of_mem_udec _), ih, readDigits_digit (Nat.mod_lt n (by decide)), readDigits]
    simp only [Prod.mk.injEq, and_true]
    omega

theorem udec_ne_nil (n : Nat) : udec n ≠ [] :=
  udec_induction (P := fun _ ds => ds ≠ []) (fun _ _ => List.cons_ne_nil _ _) (fun _ _ _ => by simp) n

/-- The number of digits. -/
theorem length_udec (n : Nat) : (udec n).length = Nat.log 10 n + 1 := by
  refine udec_induction (P := fun n ds => ds.length = Nat.log 10 n + 1) (fun d hd => ?_) (fun n hn ih => ?_) n
  · rw [Nat.log_of_lt hd, List.length_singleton]
  · rw [List.length_append, ih, List.length_singleton, Nat.log_of_one_lt_of_le (by decide) hn]

/-- A leading zero is the spelling of 0 (R88). -/
theorem udec_of_head_zero {n : Nat} (h : (udec n).head? = some 0x30) : n = 0 ∧ udec n = [0x30] := by
  have hzero : n = 0 := by
    revert h
    refine udec_induction (P := fun n ds => ds.head? = some 0x30 → n = 0) (fun d hd h => ?_) (fun n hn ih h => ?_) n
    · have h := congrArg BitVec.toNat (Option.some.inj h)
      rw [digit_toNat hd] at h
      simpa using h
    · rw [List.head?_append_of_ne_nil _ (udec_ne_nil _)] at h
      have := ih h
      omega
  subst hzero
  exact ⟨rfl, rfl⟩

/-! ### `sdec` and `mdec` (R89, R90) -/

theorem sdec_of_nonneg {v : Int} (h : 0 ≤ v) : sdec v = udec v.toNat := by
  rw [sdec, if_neg (Int.not_lt.2 h), ← Int.toNat_of_nonneg h]
  rfl

theorem sdec_of_neg {v : Int} (h : v < 0) : sdec v = 0x2D :: udec (-v).toNat := by
  have habs : v.natAbs = (-v).toNat := by omega
  rw [sdec, if_pos h, habs]

theorem isDigit_of_mem_d3 {r : Nat} (h : r < 1000) : ∀ b ∈ d3 r, isDigit b = true := by
  rw [d3]
  simp only [List.forall_mem_cons]
  exact ⟨isDigit_digit (by omega), isDigit_digit (by omega), isDigit_digit (by omega), fun _ hb => nomatch hb⟩

theorem readDigits_d3 {r : Nat} (h : r < 1000) (rest : List Byte) :
    readDigits 0 (d3 r ++ rest) = readDigits r rest := by
  simp only [d3, List.cons_append, List.nil_append]
  rw [readDigits_digit (by omega), readDigits_digit (by omega), readDigits_digit (by omega)]
  congr 1
  omega

/-! ### A number in front of what is no digit -/

variable {rest : List Byte}

/-- Reading stops where no digit follows. -/
def NoDigit (rest : List Byte) : Prop := ∀ b ∈ rest.head?, isDigit b = false

theorem readDigits_stop (h : NoDigit rest) (acc : Nat) : readDigits acc rest = (acc, rest) := by
  cases rest with
  | nil => rfl
  | cons b rest => simp [readDigits, h b rfl]

theorem readDigits_udec_append (h : NoDigit rest) (n : Nat) : readDigits 0 (udec n ++ rest) = (n, rest) := by
  rw [readDigits_append (isDigit_of_mem_udec n), readDigits_udec, readDigits_stop h]

theorem readDigits_d3_append (h : NoDigit rest) {r : Nat} (hr : r < 1000) : readDigits 0 (d3 r ++ rest) = (r, rest) := by
  rw [readDigits_d3 hr, readDigits_stop h]

theorem readSigned_sdec_append (h : NoDigit rest) (v : Int) : readSigned (sdec v ++ rest) = (v, rest) := by
  by_cases hv : v < 0
  · rw [sdec_of_neg hv, List.cons_append, readSigned, if_pos rfl]
    simp only [readDigits_udec_append h, Prod.mk.injEq, and_true]
    omega
  · have hv := Int.not_lt.1 hv
    have hread := readDigits_udec_append h v.toNat
    rw [sdec_of_nonneg hv]
    cases hu : udec v.toNat with
    | nil => exact absurd hu (udec_ne_nil _)
    | cons b ds =>
      have hb : b ≠ 0x2D := by
        rintro rfl
        exact absurd (isDigit_of_mem_udec v.toNat 0x2D (hu ▸ List.mem_cons_self)) (by decide)
      rw [hu, List.cons_append] at hread
      rw [List.cons_append, readSigned, if_neg hb]
      simp only [hread, Prod.mk.injEq, and_true]
      omega

end Sys2Proof.Machine
end

section
/-! SUPPORT. The four lines: their lengths and their bytes (30_encoding.md R84 to R93). -/

namespace Sys2Proof.Machine

open Sys2Proof.Safety

/-! ### Lengths (R85, R87) -/

theorem length_udec_pos (n : Nat) : 1 ≤ (udec n).length := List.length_pos_of_ne_nil (udec_ne_nil n)

theorem length_udec_le {n k : Nat} (h : n < 10 ^ (k + 1)) : (udec n).length ≤ k + 1 := by
  rw [length_udec]
  exact Nat.log_lt_of_lt_pow' (Nat.succ_ne_zero k) h

theorem two_le_length_udec {n : Nat} (h : 10 ≤ n) : 2 ≤ (udec n).length := by
  rw [length_udec]
  exact Nat.succ_le_succ (Nat.log_pos (by decide) h)

/-- An 18-bit component takes at most a sign and six digits. -/
theorem length_sdec {v : Int} (hlo : -131072 ≤ v) (hhi : v ≤ 131071) :
    1 ≤ (sdec v).length ∧ (sdec v).length ≤ 7 := by
  by_cases hv : v < 0
  · have := length_udec_le (n := (-v).toNat) (k := 5) (by omega)
    rw [sdec_of_neg hv, List.length_cons]
    omega
  · have hv := Int.not_lt.1 hv
    have hpos := length_udec_pos v.toNat
    have := length_udec_le (n := v.toNat) (k := 5) (by omega)
    rw [sdec_of_nonneg hv]
    omega

theorem length_metaLine (fp start stop : Nat) :
    (metaLine fp start stop).length = 26 + (udec fp).length + (udec start).length + (udec stop).length := by
  simp only [metaLine, textMeta, textStart, textEnd, crlf, List.length_append, List.length_cons, List.length_nil]
  omega

theorem length_cirLine (i : Nat) (a b : Int) (m : Nat) :
    (cirLine i a b m).length =
      13 + (udec i).length + (sdec a).length + (sdec b).length + (udec (m / 1000)).length := by
  simp only [cirLine, mdec, d3, textCir, crlf, List.length_append, List.length_cons, List.length_nil]
  omega

/-! ### Bytes (R84, R92, R93) -/

/-- A line of one of the four forms. -/
def IsLine (l : List Byte) : Prop :=
  (∃ fp start stop, l = metaLine fp start stop) ∨ l = beginLine ∨ (∃ i a b m, l = cirLine i a b m) ∨ l = endLine

/-- A byte that may stand before the CR LF of a line. -/
def IsTextByte (b : Byte) : Prop :=
  isDigit b = true
    ∨ b ∈ ([0x41, 0x42, 0x43, 0x44, 0x45, 0x46, 0x47, 0x49, 0x4D, 0x4E, 0x50, 0x52, 0x53, 0x54, 0x5F, 0x2C, 0x3D, 0x2E,
      0x2D] : List Byte)

theorem isTextByte_udec (n : Nat) : ∀ b ∈ udec n, IsTextByte b := fun b hb => Or.inl (isDigit_of_mem_udec n b hb)

theorem isTextByte_sdec (v : Int) : ∀ b ∈ sdec v, IsTextByte b := by
  unfold sdec
  split
  · exact List.forall_mem_cons.2 ⟨Or.inr (by decide), isTextByte_udec _⟩
  · exact isTextByte_udec _

theorem isTextByte_mdec (m : Nat) : ∀ b ∈ mdec m, IsTextByte b :=
  List.forall_mem_append.2 ⟨isTextByte_udec _, List.forall_mem_cons.2
    ⟨Or.inr (by decide), fun b hb => Or.inl (isDigit_of_mem_d3 (Nat.mod_lt m (by decide)) b hb)⟩⟩

theorem isTextByte_comma {bs : List Byte} (h : ∀ b ∈ bs, IsTextByte b) : ∀ b ∈ 0x2C :: bs, IsTextByte b :=
  List.forall_mem_cons.2 ⟨Or.inr (by decide), h⟩

theorem isTextByte_literals :
    (∀ b ∈ textMeta, IsTextByte b) ∧ (∀ b ∈ textStart, IsTextByte b) ∧ (∀ b ∈ textEnd, IsTextByte b)
      ∧ ∀ b ∈ textCir, IsTextByte b := by
  unfold IsTextByte
  decide

/-- A body of text, then CR LF. -/
theorem body_of_isLine {l : List Byte} (h : IsLine l) :
    ∃ body, l = body ++ [0x0D, 0x0A] ∧ ∀ b ∈ body, IsTextByte b := by
  obtain ⟨hmeta, hstart, hend, hcir⟩ := isTextByte_literals
  rcases h with ⟨fp, start, stop, rfl⟩ | rfl | ⟨i, a, b, m, rfl⟩ | rfl
  · refine ⟨_, rfl, ?_⟩
    simp only [List.forall_mem_append]
    exact ⟨⟨⟨⟨⟨hmeta, isTextByte_udec fp⟩, hstart⟩, isTextByte_udec start⟩, hend⟩, isTextByte_udec stop⟩
  · exact ⟨beginLine.take 11, rfl, by unfold IsTextByte; decide⟩
  · refine ⟨_, rfl, ?_⟩
    simp only [List.forall_mem_append]
    exact ⟨⟨⟨⟨hcir, isTextByte_udec i⟩, isTextByte_comma (isTextByte_sdec a)⟩, isTextByte_comma (isTextByte_sdec b)⟩,
      isTextByte_comma (isTextByte_mdec m)⟩
  · exact ⟨endLine.take 9, rfl, by unfold IsTextByte; decide⟩

/-- The text bytes are of the character set, without its CR and LF. -/
theorem isTextByte_inCharacterSet {b : Byte} (h : IsTextByte b) : InCharacterSet b ∧ b ≠ 0x0D ∧ b ≠ 0x0A := by
  revert b
  unfold IsTextByte InCharacterSet
  decide

/-! ### The lines of a framed observation (42_diagnostics_framer.md R174, R175) -/

theorem isLine_of_mem_cirLinesFrom {i : Nat} {ps : List (Int × Int)} {l : List Byte} (h : l ∈ cirLinesFrom i ps) :
    IsLine l := by
  induction ps generalizing i with
  | nil => nomatch h
  | cons p ps ih =>
    rcases List.mem_cons.1 h with rfl | h
    · exact Or.inr (Or.inr (Or.inl ⟨_, _, _, _, rfl⟩))
    · exact ih h

theorem isLine_of_mem_openGroup {raw : BitVec 16} {ps : List (Int × Int)} {l : List Byte} (h : l ∈ openGroup raw ps) :
    IsLine l := by
  rcases List.mem_cons.1 h with rfl | h
  · exact Or.inl ⟨_, _, _, rfl⟩
  · rcases List.mem_cons.1 h with rfl | h
    · exact Or.inr (Or.inl rfl)
    · exact isLine_of_mem_cirLinesFrom h

theorem isLine_of_mem_groups {ls : List (List Byte)} (hg : Groups ls) {l : List Byte} (h : l ∈ ls) : IsLine l := by
  induction hg with
  | none => nomatch h
  | more ls raw ps _ _ _ ih =>
    simp only [List.mem_append, List.mem_singleton] at h
    rcases h with (h | h) | h
    · exact ih h
    · exact isLine_of_mem_openGroup h
    · exact Or.inr (Or.inr (Or.inr h))

theorem mem_linesOf {es : List Event} {l : List Byte} (h : Event.line l ∈ es) : l ∈ linesOf es := by
  induction es with
  | nil => nomatch h
  | cons e es ih =>
    cases e with
    | line bs =>
      rcases List.mem_cons.1 h with he | h
      · obtain rfl := Event.line.inj he
        exact List.mem_cons_self
      · exact List.mem_cons_of_mem _ (ih h)
    | request w r => exact ih ((List.mem_cons.1 h).resolve_left Event.noConfusion)
    | sample re im => exact ih ((List.mem_cons.1 h).resolve_left Event.noConfusion)

/-- Where a run stands in a group of lines: outside one, at its start, among its samples, at its end, or stopped. -/
theorem groupPhase_of_code {s : State} (h : s.st.toNat ≤ 13) :
    (Between s 0 6 ∨ Between s 11 12) ∨ s.st = 0x7 ∨ Between s 8 9 ∨ s.st = 0xA ∨ s.st = 0xD := by
  unfold Between
  generalize s.st = c at h ⊢
  revert c
  decide

/-- Whatever the state code, the part of a group that is out is nothing, a metadata line or an open group. -/
theorem isLine_of_framed {s : State} (hi : Inv s) (hf : Framed s) {l : List Byte} (h : Event.line l ∈ s.trace) :
    IsLine l := by
  obtain ⟨done, part, hlines, hdone, hidle, hmeta, hvisit, hclose, hfault⟩ := hf
  have hmem := mem_linesOf h
  rw [hlines, List.mem_append] at hmem
  rcases hmem with hmem | hmem
  · exact isLine_of_mem_groups hdone hmem
  have hopen (hp : ∃ ps, part = openGroup s.fpRaw ps) : IsLine l := by
    obtain ⟨ps, rfl⟩ := hp
    exact isLine_of_mem_openGroup hmem
  rcases groupPhase_of_code hi.code with hst | hst | hst | hst | hst
  · rw [hidle hst] at hmem
    nomatch hmem
  · rw [hmeta hst] at hmem
    exact Or.inl ⟨_, _, _, List.mem_singleton.1 hmem⟩
  · obtain ⟨ps, -, -, hp⟩ := hvisit hst
    exact hopen ⟨ps, hp⟩
  · obtain ⟨ps, -, -, hp⟩ := hclose hst
    exact hopen ⟨ps, hp⟩
  · rcases hfault hst with hp | ⟨ps, -, -, hp⟩
    · rw [hp] at hmem
      nomatch hmem
    · exact hopen ⟨ps, hp⟩

/-- A byte of the telemetry stream is a byte of an emitted line. -/
theorem line_of_mem_telemetry {s : State} {b : Byte} (h : b ∈ s.telemetry) : ∃ l, Event.line l ∈ s.trace ∧ b ∈ l := by
  obtain ⟨e, he, hb⟩ := List.mem_flatMap.1 h
  cases e with
  | line bs => exact ⟨bs, he, hb⟩
  | request _ _ => nomatch hb
  | sample _ _ => nomatch hb

end Sys2Proof.Machine
end

section
/-! SUPPORT. A request word by its fields (30_encoding.md R95), and the rows that the decoder accepts (R98). -/

namespace Sys2Proof.Machine

/-! ### Fields -/

section
variable (op rid : Code) (a : BitVec 16) (b : Word32)

variable {op rid a b} in
/-- A field of a request word is a quotient and a residue of its number. -/
theorem requestWord_field {lo n : Nat} {f : BitVec n}
    (h : (op.toNat * 2 ^ 60 + rid.toNat * 2 ^ 56 + a.toNat * 2 ^ 32 + b.toNat) / 2 ^ lo % 2 ^ n = f.toNat) :
    (requestWord op rid a b).extractLsb' lo n = f :=
  BitVec.eq_of_toNat_eq (by rw [BitVec.extractLsb'_toNat, requestWord_toNat, Nat.shiftRight_eq_div_pow, h])

@[simp] theorem requestWord_op : (requestWord op rid a b).extractLsb' 60 4 = op := requestWord_field (by omega)
@[simp] theorem requestWord_rid : (requestWord op rid a b).extractLsb' 56 4 = rid := requestWord_field (by omega)
@[simp] theorem requestWord_reserved : (requestWord op rid a b).extractLsb' 48 8 = 0 :=
  requestWord_field (by have h0 : (0 : Byte).toNat = 0 := rfl; omega)
@[simp] theorem requestWord_a : (requestWord op rid a b).extractLsb' 32 16 = a := requestWord_field (by omega)
@[simp] theorem requestWord_b : (requestWord op rid a b).extractLsb' 0 32 = b := requestWord_field (by omega)

end

/-- A word whose reserved field is zero is put together from its other fields. -/
theorem requestWord_of_fields {w : BitVec 64} (h : w.extractLsb' 48 8 = 0) :
    requestWord (w.extractLsb' 60 4) (w.extractLsb' 56 4) (w.extractLsb' 32 16) (w.extractLsb' 0 32) = w := by
  apply BitVec.eq_of_toNat_eq
  have hz := congrArg BitVec.toNat h
  have h0 : (0 : Byte).toNat = 0 := rfl
  rw [BitVec.extractLsb'_toNat, Nat.shiftRight_eq_div_pow, h0] at hz
  simp only [requestWord_toNat, BitVec.extractLsb'_toNat, Nat.shiftRight_eq_div_pow]
  omega

/-! ### The rows with a request word -/

/-- The request words of R98, with the row that each stands for. -/
inductive RequestRow : Instr → BitVec 64 → Prop
  | armRx : RequestRow .armRx armWord
  | readStatus : RequestRow .readReg32Status (regReadWord Config.ridStatus)
  | readRxinfo : RequestRow .readReg32Rxinfo (regReadWord Config.ridRxinfo)
  | writeClear (mask : Word32) : RequestRow (.writeClear32 mask) (clearWord mask)
  | readRxData (len : BitVec 16) : len ≠ 0 → RequestRow (.readRxData len) (rxDataWord len)
  | readAcc (index : BitVec 10) : RequestRow (.readAcc index) (accWord index)
  | readDiag : RequestRow .readDiag diagWord

variable {i : Instr} {w : BitVec 64}

theorem encode_of_requestRow (h : RequestRow i w) : encode i = leBytes 8 w.toNat := by
  cases h <;> rfl

theorem wf_of_requestRow (h : RequestRow i w) : i.wf = true := by
  cases h with
  | readRxData len hlen => exact bne_iff_ne.2 hlen
  | _ => rfl

theorem decodeRequest_of_requestRow (h : RequestRow i w) : decodeRequest w = .ok i := by
  cases h with
  | armRx | readStatus | readRxinfo | readDiag => decide
  | writeClear mask => simp [decodeRequest, clearWord]
  | readRxData len hlen =>
    have hlen : ¬ len = 0#16 := hlen
    simp [decodeRequest, rxDataWord, hlen]
  | readAcc index =>
    have hcap : ¬ Config.accCap ≤ index.toNat := by unfold Config.accCap; omega
    have hwide : index.toNat % 65536 = index.toNat := by omega
    simp [decodeRequest, accWord, hwide, hcap]

/-! ### The tests that a decoded word has passed -/

section
variable {e : DecodeError} {x : Except DecodeError Instr}

theorem ok_of_test {p : Prop} [Decidable p] (h : (if p then .error e else x) = .ok i) : ¬ p ∧ x = .ok i := by
  split at h
  · nomatch h
  next hp => exact ⟨hp, h⟩

theorem ok_of_eq_test {n : Nat} {y z : BitVec n} (h : (if y ≠ z then .error e else x) = .ok i) :
    y = z ∧ x = .ok i :=
  (ok_of_test h).imp_left not_not.1

theorem ok_of_eq_tests {m n : Nat} {y z : BitVec m} {y' z' : BitVec n}
    (h : (if y ≠ z ∨ y' ≠ z' then .error e else x) = .ok i) : y = z ∧ y' = z' ∧ x = .ok i := by
  obtain ⟨hne, h⟩ := ok_of_test h
  exact ⟨not_not.1 fun hy => hne (Or.inl hy), not_not.1 fun hy => hne (Or.inr hy), h⟩

end

/-- A sample index that the decoder lets through is one of ten bits. -/
theorem setWidth_index {a : BitVec 16} (h : ¬ Config.accCap ≤ a.toNat) : (a.setWidth 10).setWidth 16 = a := by
  apply BitVec.eq_of_toNat_eq
  unfold Config.accCap at h
  simp only [BitVec.toNat_setWidth]
  omega

theorem eq_of_code {op : Code} {n : Nat} (h : op.toNat = n) : op = BitVec.ofNat 4 n := by
  rw [← h, BitVec.ofNat_toNat, BitVec.setWidth_eq]

/-- What the decoder accepts, opcode by opcode (R95 to R98). -/
theorem requestRow_of_fields {op rid : Code} {a : BitVec 16} {b : Word32}
    (h : decodeRequest (requestWord op rid a b) = .ok i) : RequestRow i (requestWord op rid a b) := by
  simp only [decodeRequest, requestWord_op, requestWord_rid, requestWord_reserved, requestWord_a, requestWord_b] at h
  replace ⟨_, h⟩ := ok_of_eq_test h
  split at h
  next hop =>
    have ⟨hrid, h⟩ := ok_of_eq_test h
    have ⟨ha, hb, h⟩ := ok_of_eq_tests h
    rw [← Except.ok.inj h, eq_of_code hop, hrid, ha, hb]
    exact .armRx
  next hop =>
    have ⟨ha, hb, h⟩ := ok_of_eq_tests h
    rw [eq_of_code hop, ha, hb]
    split at h
    next hrid =>
      rw [← Except.ok.inj h, hrid]
      exact .readStatus
    next =>
      split at h
      next hrid =>
        rw [← Except.ok.inj h, hrid]
        exact .readRxinfo
      next => nomatch h
  next hop =>
    have ⟨hrid, h⟩ := ok_of_eq_test h
    have ⟨ha, h⟩ := ok_of_eq_test h
    rw [← Except.ok.inj h, eq_of_code hop, hrid, ha]
    exact .writeClear b
  next hop =>
    have ⟨hrid, h⟩ := ok_of_eq_test h
    have ⟨hb, h⟩ := ok_of_eq_test h
    have ⟨hlen, h⟩ := ok_of_test h
    rw [← Except.ok.inj h, eq_of_code hop, hrid, hb]
    exact .readRxData a hlen
  next hop =>
    have ⟨hrid, h⟩ := ok_of_eq_test h
    have ⟨hb, h⟩ := ok_of_eq_test h
    have ⟨hcap, h⟩ := ok_of_test h
    have hrow := RequestRow.readAcc (a.setWidth 10)
    rw [accWord, setWidth_index hcap] at hrow
    rwa [← Except.ok.inj h, eq_of_code hop, hrid, hb]
  next hop =>
    have ⟨hrid, h⟩ := ok_of_eq_test h
    have ⟨ha, hb, h⟩ := ok_of_eq_tests h
    rw [← Except.ok.inj h, eq_of_code hop, hrid, ha, hb]
    exact .readDiag
  next => nomatch h

theorem requestRow_of_decodeRequest (h : decodeRequest w = .ok i) : RequestRow i w := by
  have hz : w.extractLsb' 48 8 = 0 := (ok_of_eq_test h).1
  rw [← requestWord_of_fields hz] at h ⊢
  exact requestRow_of_fields h

end Sys2Proof.Machine
end

section
/-! SUPPORT. The formats of a row, encoded and decoded (30_encoding.md R84 to R92, R103; 10_state.md R21). -/

namespace Sys2Proof.Machine

/-! ### State codes, request words and records -/

theorem encode_decodeCode (c : Code) : encode (decodeCode c) = [c.setWidth 8] ∧ (decodeCode c).wf = true := by
  revert c
  decide

variable {i : Instr} {bs : List Byte}

theorem decode_encode_of_requestRow {w : BitVec 64} (h : RequestRow i w) : decode (encode i) = .ok i := by
  rw [encode_of_requestRow h, decode_request, decodeRequest_of_requestRow h]

theorem decode_encode_accRecord (w : BitVec 56) : decode (encode (.accRecord w)) = .ok (.accRecord w) := by
  have hlen := Laws.EncodedLength.length_leBytes 7 w.toNat
  have hw : BitVec.ofNat 56 (ofLeBytes (leBytes 7 w.toNat)) = w := by
    apply BitVec.eq_of_toNat_eq
    rw [ofLeBytes_leBytes, BitVec.toNat_ofNat]
    omega
  rw [encode, decode_boundary (by omega), decodeBoundary, if_pos hlen, hw]

/-! ### Lines, read back -/

theorem noDigit_cons {b : Byte} (h : isDigit b = false) (rest : List Byte) : NoDigit (b :: rest) := fun c hc => by
  rwa [← Option.some.inj hc]

theorem readMeta_metaLine (fp start stop : BitVec 10) :
    readMeta (metaLine fp.toNat start.toNat stop.toNat) = some (.tlmCirMeta fp start stop) := by
  have hstart (rest : List Byte) : NoDigit (textStart ++ rest) := noDigit_cons rfl _
  have hend (rest : List Byte) : NoDigit (textEnd ++ rest) := noDigit_cons rfl _
  have hcrlf : NoDigit crlf := noDigit_cons rfl _
  simp only [readMeta, metaLine, List.append_assoc, stripText_append, Option.bind_some, readDigits_udec_append (hstart _),
    readDigits_udec_append (hend _), readDigits_udec_append hcrlf, BitVec.ofNat_toNat, BitVec.setWidth_eq]

theorem readCir_cirLine (index : BitVec 10) (real imag : BitVec 18) (mag : BitVec 28) :
    readCir (cirLine index.toNat real.toInt imag.toInt mag.toNat) = some (.tlmCir index real imag mag) := by
  have hcomma (rest : List Byte) : NoDigit (0x2C :: rest) := noDigit_cons rfl _
  have hpoint (rest : List Byte) : NoDigit (0x2E :: rest) := noDigit_cons rfl _
  have hcrlf : NoDigit crlf := noDigit_cons rfl _
  have hstrip (b : Byte) (rest : List Byte) : stripText [b] (b :: rest) = some rest := stripText_append [b] rest
  have hmag : mag.toNat / 1000 * 1000 + mag.toNat % 1000 = mag.toNat := Nat.div_add_mod' _ _
  simp only [readCir, cirLine, mdec, List.append_assoc, List.cons_append, stripText_append, hstrip, Option.bind_some,
    readDigits_udec_append (hcomma _), readSigned_sdec_append (hcomma _), readDigits_udec_append (hpoint _),
    readDigits_d3_append hcrlf (Nat.mod_lt mag.toNat (by decide)), hmag, BitVec.ofNat_toNat, BitVec.setWidth_eq,
    BitVec.ofInt_toInt]

/-- A line that is neither marker and whose fields are read as those of a well-formed row with this spelling. -/
theorem decodeLine_ok (hbegin : bs ≠ beginLine) (hend : bs ≠ endLine) (hread : (readMeta bs).or (readCir bs) = some i)
    (hwf : i.wf = true) (hline : lineBytes i = bs) : decodeLine bs = .ok i := by
  simp only [decodeLine, if_neg hbegin, if_neg hend, hread, hwf, hline, and_self, if_true]

theorem decode_line (h : 8 < bs.length) : decode bs = decodeLine bs := by
  rw [decode_boundary (by omega), decodeBoundary, if_neg (by omega), if_neg (by omega), if_pos h]

theorem decode_encode_tlmCirMeta (fp start stop : BitVec 10) :
    decode (encode (.tlmCirMeta fp start stop)) = .ok (.tlmCirMeta fp start stop) := by
  rw [decode_line (Laws.EncodedLength.tlmCirMeta fp start stop)]
  exact decodeLine_ok (fun h => nomatch h) (fun h => nomatch h)
    (congrArg (Option.or · _) (readMeta_metaLine fp start stop)) rfl rfl

theorem decode_encode_tlmCir {index : BitVec 10} {real imag : BitVec 18} {mag : BitVec 28}
    (hwf : (Instr.tlmCir index real imag mag).wf = true) :
    decode (encode (.tlmCir index real imag mag)) = .ok (.tlmCir index real imag mag) := by
  rw [decode_line (Laws.EncodedLength.tlmCir index real imag mag)]
  exact decodeLine_ok (fun h => nomatch h) (fun h => nomatch h) (readCir_cirLine index real imag mag) hwf rfl

/-! ### What decodes -/

theorem encode_of_lineBytes (h : lineBytes i ≠ []) : encode i = lineBytes i := by
  cases i with
  | tlmCirMeta | tlmFrameBegin | tlmCir | tlmFrameEnd => rfl
  | _ => exact absurd rfl h

/-- What a decoded line has passed: it is a marker, or the spelling of what was read. -/
theorem lineBytes_of_decodeLine (h : decodeLine bs = .ok i) : i.wf = true ∧ lineBytes i = bs := by
  unfold decodeLine at h
  split at h
  next hbegin => exact Except.ok.inj h ▸ ⟨rfl, hbegin.symm⟩
  next =>
    split at h
    next hend => exact Except.ok.inj h ▸ ⟨rfl, hend.symm⟩
    next =>
      split at h
      next => nomatch h
      next =>
        split at h
        next hj => exact Except.ok.inj h ▸ hj
        next => nomatch h

/-- The bytes of a number, read into a word of as many bits, are that word's bytes. -/
theorem leBytes_ofNat_ofLeBytes {n : Nat} (h : bs.length = n) :
    leBytes n (BitVec.ofNat (8 * n) (ofLeBytes bs)).toNat = bs := by
  subst h
  rw [BitVec.toNat_ofNat, Nat.pow_mul, Nat.mod_eq_of_lt (ofLeBytes_lt bs), leBytes_ofLeBytes]

theorem encode_of_decodeBoundary (h : decodeBoundary bs = .ok i) : i.wf = true ∧ encode i = bs := by
  unfold decodeBoundary at h
  split at h
  next hlen => exact Except.ok.inj h ▸ ⟨rfl, leBytes_ofNat_ofLeBytes hlen⟩
  next =>
    split at h
    next hlen =>
      have hrow := requestRow_of_decodeRequest h
      exact ⟨wf_of_requestRow hrow, (encode_of_requestRow hrow).trans (leBytes_ofNat_ofLeBytes hlen)⟩
    next =>
      split at h
      next hlen =>
        obtain ⟨hwf, hline⟩ := lineBytes_of_decodeLine h
        have hne : lineBytes i ≠ [] := by rw [hline]; exact List.ne_nil_of_length_pos (by omega)
        exact ⟨hwf, (encode_of_lineBytes hne).trans hline⟩
      next => nomatch h

/-- One byte decodes where it is a state code. -/
theorem encode_of_decode_byte {b : Byte} (h : decode [b] = .ok i) : i.wf = true ∧ encode i = [b] := by
  obtain ⟨hwide, h⟩ := ok_of_test h
  obtain ⟨hencode, hwf⟩ := encode_decodeCode (b.setWidth 4)
  have hb : (b.setWidth 4).setWidth 8 = b := by
    apply BitVec.eq_of_toNat_eq
    simp only [BitVec.toNat_setWidth]
    omega
  rw [← Except.ok.inj h]
  exact ⟨hwf, hencode.trans (congrArg (fun c => [c]) hb)⟩

end Sys2Proof.Machine
end

section
/-! SUPPORT. The request word of every step of the block (30_encoding.md R98). -/

namespace Sys2Proof.Machine

open Sys2Proof.Safety

/-- From `s` to `t` no request is observed but one that the block issues (R98). -/
def IssuesTableWords (s t : State) : Prop :=
  ∀ w r, Event.request w r ∈ t.trace → Event.request w r ∈ s.trace ∨ Issued s.params w

variable {s t : State}

theorem issuesTableWords_of_trace_eq (h : t.trace = s.trace) : IssuesTableWords s t := fun _ _ hmem =>
  Or.inl (h ▸ hmem)

/-- A transaction whose word is one of the table, and whose operation observes nothing else. -/
theorem issuesTableWords_of_transact {α : Type} {w : BitVec 64} {take : Response → Option α} {c : Code}
    {k : α → State → Result} (hw : Issued s.params w) (h : transact w take c s k = .next t)
    (hk : ∀ a u, k a u = .next t → t.trace = u.trace) : IssuesTableWords s t := by
  have hanswered {r : Response} (ht : t.trace = s.trace ++ [.request w r]) : IssuesTableWords s t := by
    intro w' r' hmem
    rw [ht, List.mem_append, List.mem_singleton] at hmem
    refine hmem.imp id fun he => ?_
    cases he
    exact hw
  rcases transact_next h with ⟨-, rfl⟩ | ⟨rest, -, rfl⟩ | ⟨r, rest, a, -, -, -, hnext⟩
  · exact issuesTableWords_of_trace_eq rfl
  · exact hanswered rfl
  · exact hanswered (hk a _ hnext)

/-- A line is no request. -/
theorem issuesTableWords_of_emit {bs : List Byte} {f : State → Result} (h : emit bs s f = .next t)
    (hf : ∀ u, f u = .next t → t.trace = u.trace) : IssuesTableWords s t := by
  rcases emit_next h with ⟨-, rfl⟩ | ⟨-, hnext⟩
  · exact issuesTableWords_of_trace_eq rfl
  · intro w r hmem
    rw [hf _ hnext] at hmem
    exact Or.inl (by simpa using hmem)

/-! ### The words of the operations are words of the table -/

variable {p : Config.Params}

theorem issued_armWord : Issued p armWord := by rw [armWord_eq]; simp [Issued]
theorem issued_readStatus : Issued p (regReadWord Config.ridStatus) := by rw [regReadWord_ridStatus]; simp [Issued]
theorem issued_readRxinfo : Issued p (regReadWord Config.ridRxinfo) := by rw [regReadWord_ridRxinfo]; simp [Issued]
theorem issued_diagWord : Issued p diagWord := by rw [diagWord_eq]; simp [Issued]
theorem issued_clearGood : Issued p (clearWord p.goodMask) := by rw [clearWord_eq]; simp [Issued]
theorem issued_clearErr : Issued p (clearWord p.errMask) := by rw [clearWord_eq]; simp [Issued]

theorem issued_rxDataWord {n : BitVec 16} (h1 : 1 ≤ n.toNat) (h2 : n.toNat ≤ 125) : Issued p (rxDataWord n) := by
  rw [rxDataWord_eq]
  exact Or.inr <| Or.inr <| Or.inr <| Or.inr <| Or.inr <| Or.inr <| Or.inl ⟨n.toNat, h1, h2, rfl⟩

theorem issued_accWord (i : BitVec 10) : Issued p (accWord i) := by
  rw [accWord_eq]
  exact Or.inr <| Or.inr <| Or.inr <| Or.inr <| Or.inr <| Or.inr <| Or.inr ⟨i.toNat, Nat.le_of_lt_succ i.isLt, rfl⟩

/-- The frame length that R196 lets through gives S_GOOD_COPY a LEN from 1 to 125. -/
theorem issuesTableWords_goodCopy (hi : Inv s) (hst : s.st = 0x4) (h : execSGoodCopy s = .next t) :
    IssuesTableWords s t := by
  obtain ⟨n, hn, -, h⟩ := execSGoodCopy_next h
  obtain ⟨hlen, hpos⟩ := payloadLen_some hn
  obtain ⟨-, hmax⟩ := hi.copying hst
  refine issuesTableWords_of_transact (issued_rxDataWord hpos (by omega)) h fun bs u hk => ?_
  split at hk
  · cases hk; rfl
  · nomatch hk

/-- Operation by operation, the word is that of the table's row. -/
theorem issuesTableWords_of_step (hi : Inv s) (hr : s.rstIn = false) (ht : step s = .next t) :
    IssuesTableWords s t := by
  rcases step_next_cases ⟨hi.params, hr, hi.bench⟩ ht with ⟨-, h⟩ | ⟨-, h⟩ | ⟨-, h⟩ | ⟨-, h⟩ | ⟨hst, h⟩ | ⟨-, h⟩
    | ⟨-, h⟩ | ⟨-, h⟩ | ⟨-, h⟩ | ⟨-, h⟩ | ⟨-, h⟩ | ⟨-, h⟩ | ⟨-, h⟩ | ⟨-, rfl⟩ | ⟨-, rfl⟩
  · cases h; exact issuesTableWords_of_trace_eq rfl
  · exact issuesTableWords_of_transact issued_armWord h fun _ _ hk => by cases hk; rfl
  · exact issuesTableWords_of_transact issued_readStatus h fun _ _ hk => by cases hk; rfl
  · exact issuesTableWords_of_transact issued_readRxinfo h fun _ _ hk => by cases hk; rfl
  · exact issuesTableWords_goodCopy hi hst h
  · exact issuesTableWords_of_transact issued_diagWord h fun _ _ hk => by cases hk; rfl
  · exact issuesTableWords_of_emit h fun _ hk => by cases hk; rfl
  · exact issuesTableWords_of_emit h fun _ hk => by cases hk; rfl
  · exact issuesTableWords_of_transact (issued_accWord _) h fun _ _ hk => by cases hk; rfl
  · exact issuesTableWords_of_emit h fun u hk => by cases hk; exact bumpIdx_trace u
  · exact issuesTableWords_of_emit h fun _ hk => by cases hk; rfl
  · exact issuesTableWords_of_transact issued_clearGood h fun _ _ hk => by cases hk; rfl
  · exact issuesTableWords_of_transact issued_clearErr h fun _ _ hk => by cases hk; rfl
  · exact issuesTableWords_of_trace_eq rfl
  · exact issuesTableWords_of_trace_eq rfl

end Sys2Proof.Machine
end

section
/-! SUPPORT. What the port refuses (30_encoding.md R99), a record's fields (R82, R105) and the operation of a code (R100). -/

namespace Sys2Proof.Machine

open Sys2Proof.Safety

/-! ### A response without the data of its request -/

theorem takeAck_none {r : Response} (h : r ≠ .ack) : takeAck r = none :=
  Option.eq_none_iff_forall_ne_some.2 fun _ ha => h (takeAck_eq ha)

theorem takeWord_none {r : Response} (h : ∀ v, r ≠ .word v) : takeWord r = none :=
  Option.eq_none_iff_forall_ne_some.2 fun v ha => h v (takeWord_eq ha)

theorem takeDiag_none {r : Response} (h : ∀ f other, r ≠ .diag f other) : takeDiag r = none :=
  Option.eq_none_iff_forall_ne_some.2 fun f ha =>
    have ⟨other, hr⟩ := takeDiag_eq ha
    h f other hr

theorem takeRecord_none {r : Response} (h : ∀ q, r ≠ recordResponse q) : takeRecord r = none :=
  Option.eq_none_iff_forall_ne_some.2 fun q ha => h q (takeRecord_eq ha)

theorem takeBytes_none {r : Response} {n : Nat} (h : ∀ bs, r = .bytes bs → bs.length ≠ n) : takeBytes n r = none :=
  Option.eq_none_iff_forall_ne_some.2 fun bs ha =>
    have ⟨hr, hlen⟩ := takeBytes_eq ha
    h bs hr hlen

theorem requestAlone_bad {α : Type} {w : BitVec 64} {take : Response → Option α} {c : Code} {s : State} {r : Response}
    {rest : List Response} (h : s.responses = r :: rest) (hr : r ≠ .fault) (ha : take r = none) :
    requestAlone w take c s = .refused .badResponse := by
  simp only [requestAlone, h, List.isEmpty_cons, Bool.false_eq_true, if_false]
  exact transact_bad h hr ha

/-! ### The fields of a record -/

theorem fieldBytes_ofNat {v : Nat} (h : v < 262144) :
    (BitVec.ofNat 8 v).toNat + 256 * (BitVec.ofNat 8 (v / 256)).toNat + 65536 * ((BitVec.ofNat 8 (v / 65536)).toNat % 4)
      = v := by
  simp only [BitVec.toNat_ofNat]
  omega

theorem fieldValue_of_mod {a : Int} {v : Nat} (hlo : -131072 ≤ a) (hhi : a ≤ 131071) (hv : (v : Int) = a % 262144) :
    fieldValue v = a := by
  unfold fieldValue
  split <;> omega

/-! ### The operation of a state code -/

/-- A step of the block runs the operation that the decoder gives its code (10_state.md R21). -/
theorem step_of_code {s : State} {c : Code} (h : Running s) (hst : s.st = c) : step s = exec (decodeCode c) s :=
  hst ▸ step_running h

end Sys2Proof.Machine
end

section
/-! PROOFS. The statements of 30_encoding.md: O7, O49, O8, O9, O36, O37, O41, O42, O43, O44, O59, O3 and O33. -/

namespace Sys2Proof.Machine

open Sys2Proof.Safety

/-- Settles O7: a state code by its table, a request word and a record by their bytes, and a line by reading each field up
to the literal after it. -/
theorem decodeOfEncode : Obligations.DecodeOfEncode := by
  intro i hwf
  cases i with
  | sArmClear | sArmReq | sPoll | sGoodLen | sGoodCopy | sGoodDiag | sRepMeta | sRepBegin | sExtRead | sExtEmit | sRepEnd
  | sGoodClr | sErrClr | sFault => rfl
  | sReserved low => revert low; decide
  | armRx => exact decode_encode_of_requestRow .armRx
  | readReg32Status => exact decode_encode_of_requestRow .readStatus
  | readReg32Rxinfo => exact decode_encode_of_requestRow .readRxinfo
  | writeClear32 mask => exact decode_encode_of_requestRow (.writeClear mask)
  | readRxData len => exact decode_encode_of_requestRow (.readRxData len (bne_iff_ne.1 hwf))
  | readAcc index => exact decode_encode_of_requestRow (.readAcc index)
  | readDiag => exact decode_encode_of_requestRow .readDiag
  | tlmCirMeta fp start stop => exact decode_encode_tlmCirMeta fp start stop
  | tlmFrameBegin | tlmFrameEnd => rfl
  | tlmCir index real imag mag => exact decode_encode_tlmCir hwf
  | accRecord w => exact decode_encode_accRecord w

/-- Settles O49: a reset forgets the observation, and any other step adds at most the word of its operation's row. -/
theorem onlyTableWordsAreIssued : Obligations.OnlyTableWordsAreIssued := by
  refine ⟨fun _ _ _ _ hmem => absurd hmem List.not_mem_nil, fun s t hi hold ht w r hmem => ?_⟩
  by_cases hr : s.rstIn = true
  · obtain rfl := Host.Outcome.next.inj ((step_reset hi.params hr).symm.trans ht)
    exact absurd hmem List.not_mem_nil
  · have hr := Bool.eq_false_iff.2 hr
    obtain ⟨hparams, -⟩ := blockStep_inputs (step_blockStep ⟨hi.params, hr, hi.bench⟩ ht)
    rw [hparams]
    exact (issuesTableWords_of_step hi hr ht w r hmem).elim (hold w r) id

/-- Settles O8: one byte is a state code, and any other bytes are read by their length. -/
theorem encodeOfDecode : Obligations.EncodeOfDecode := by
  intro bs i h
  by_cases hlen : bs.length = 1
  · obtain ⟨b, rfl⟩ := List.length_eq_one_iff.1 hlen
    exact encode_of_decode_byte h
  · exact encode_of_decodeBoundary (decode_boundary hlen ▸ h)

/-- Settles O9: no word of a row has a reserved encoding. -/
theorem reservedRequestsAreRefused : Obligations.ReservedRequestsAreRefused := by
  intro w hw
  rw [decode_request]
  cases hd : decodeRequest w with
  | error e => exact ⟨e, rfl⟩
  | ok i =>
    cases requestRow_of_decodeRequest hd with
    | armRx | readStatus | readRxinfo | readDiag => exact absurd hw (by decide)
    | writeClear mask => simp [clearWord] at hw
    | readRxData len hlen => exact absurd (by simpa [rxDataWord] using hw) hlen
    | readAcc index => simp [accWord] at hw

/-- Settles O36: a component is a sum over its own bytes, the third modulo 4. -/
theorem decodeIgnoresOtherBits : Obligations.DecodeIgnoresOtherBits := by
  intro r q
  simp only [decodeSample_eq, reOf, imOf]
  exact ⟨fun h1 h2 h3 => by rw [h1, h2, h3], fun h4 h5 h6 => by rw [h4, h5, h6]⟩

/-- Settles O37: the three bytes sum up to the residue, whose signed value is the component. -/
theorem decodeOfEncodedSample : Obligations.DecodeOfEncodedSample := by
  intro a b v w ha ha' hb hb' hv hw
  have hre := fieldBytes_ofNat (v := v) (by omega)
  have him := fieldBytes_ofNat (v := w) (by omega)
  simp only [decodeSample_eq, reOf, imOf, hre, him, fieldValue_of_mod ha ha' hv, fieldValue_of_mod hb hb' hw]

/-- Settles O41: all by the recursion of `udec` on its last digit. -/
theorem unsignedSpelling : Obligations.UnsignedSpelling := fun n =>
  ⟨isDigit_of_mem_udec n, readDigits_udec n, udec_ne_nil n, udec_of_head_zero⟩

/-- Settles O42: the cases of `sdec`, the three digits of `mdec`, and the literals of the lines. -/
theorem signedAndFractionSpelling : Obligations.SignedAndFractionSpelling := by
  refine ⟨fun _ => sdec_of_nonneg, fun _ => sdec_of_neg, fun m => ?_, fun _ _ _ => rfl, fun i re im m => ?_⟩
  · have h100 : m % 1000 / 100 < 10 := by omega
    have h10 : m % 1000 / 10 % 10 < 10 := by omega
    have h1 : m % 1000 % 10 < 10 := by omega
    refine ⟨_, _, _, rfl, isDigit_digit h100, isDigit_digit h10, isDigit_digit h1, ?_⟩
    rw [digit_value h100, digit_value h10, digit_value h1]
    omega
  · simp [cirLine, textCir, crlf]

/-- Settles O43: the literals' lengths and the fields' numbers of digits add up. -/
theorem lineLengths : Obligations.LineLengths := by
  constructor
  · intro raw
    have hfp := fpOf_le raw
    have hstop : 10 ≤ stopOf (fpOf raw) := by unfold stopOf; omega
    have := length_udec_pos (fpOf raw)
    have := length_udec_pos (startOf (fpOf raw))
    have := two_le_length_udec hstop
    have := length_udec_le (n := fpOf raw) (k := 3) (by omega)
    have := length_udec_le (n := startOf (fpOf raw)) (k := 3) (by unfold startOf; omega)
    have := length_udec_le (n := stopOf (fpOf raw)) (k := 3) (by unfold stopOf; omega)
    rw [length_metaLine]
    omega
  · intro i a b m hi ha ha' hb hb' hm
    have := length_udec_pos i
    have := length_udec_pos (m / 1000)
    have := length_sdec ha ha'
    have := length_sdec hb hb'
    have := length_udec_le (n := i) (k := 3) (by omega)
    have := length_udec_le (n := m / 1000) (k := 5) (by omega)
    rw [length_cirLine]
    omega

/-- Settles O44: a line is put together from literals and spellings. -/
theorem linesAreFramed : Obligations.LinesAreFramed := fun _ h => body_of_isLine h

/-- Settles O59: a framed observation holds no line but those of the four forms. -/
theorem emittedLinesAreText : Obligations.EmittedLinesAreText := by
  intro s hi hf
  refine ⟨fun b hb => ?_, fun l hl => ?_⟩
  · obtain ⟨l, hl, hb⟩ := line_of_mem_telemetry hb
    obtain ⟨body, rfl, hbody⟩ := body_of_isLine (isLine_of_framed hi hf hl)
    rcases List.mem_append.1 hb with hb | hb
    · obtain ⟨hset, -, -⟩ := isTextByte_inCharacterSet (hbody b hb)
      exact hset
    · simp only [List.mem_cons, List.not_mem_nil, or_false] at hb
      rcases hb with rfl | rfl <;> simp [InCharacterSet]
  · obtain ⟨body, hl, hbody⟩ := body_of_isLine (isLine_of_framed hi hf hl)
    refine ⟨body, hl, fun hb => ?_, fun hb => ?_⟩
    · obtain ⟨-, hcr, -⟩ := isTextByte_inCharacterSet (hbody _ hb)
      exact hcr rfl
    · obtain ⟨-, -, hlf⟩ := isTextByte_inCharacterSet (hbody _ hb)
      exact hlf rfl

/-- Settles O3: the decoder's table, code by code. -/
theorem stepRunsTheSelectedOperation : Obligations.StepRunsTheSelectedOperation := fun _ h =>
  ⟨step_of_code h, step_of_code h, step_of_code h, step_of_code h, step_of_code h, step_of_code h, step_of_code h,
    step_of_code h, step_of_code h, step_of_code h, step_of_code h, step_of_code h, step_of_code h, step_of_code h,
    step_of_code h, step_of_code h⟩

/-- Settles O33: an operation is `transact` and a row `requestAlone`, and both refuse what `take` does not take. -/
theorem wrongResponsesAreRefused : Obligations.WrongResponsesAreRefused := by
  intro s r rest h hr
  simp only [exec]
  refine ⟨fun hack => ?ack, fun hword => ?word, fun hdiag => ?diag, fun hrec => ?record,
    fun n hlen hpos hmax hmem hbytes => ?copy, fun len hpos hmem hbytes => ?rxData⟩
  case ack =>
    have hbad := takeAck_none hack
    refine ⟨transact_bad h hr hbad, transact_bad h hr hbad, transact_bad h hr hbad, requestAlone_bad h hr hbad,
      fun mask => ?_⟩
    obtain ⟨n, hn⟩ := execWriteClear32_request mask h
    exact hn.trans (requestAlone_bad h hr hbad)
  case word =>
    have hbad := takeWord_none hword
    exact ⟨transact_bad h hr hbad, transact_bad h hr hbad, requestAlone_bad h hr hbad, requestAlone_bad h hr hbad⟩
  case diag =>
    have hbad := takeDiag_none hdiag
    exact ⟨transact_bad h hr hbad, requestAlone_bad h hr hbad⟩
  case record =>
    have hbad := takeRecord_none hrec
    exact ⟨transact_bad h hr hbad, fun _ => requestAlone_bad h hr hbad⟩
  case copy =>
    have hn := payloadLen_eq hlen hpos hmax
    have hnat : (BitVec.ofNat 16 n).toNat = n := by rw [BitVec.toNat_ofNat]; omega
    obtain ⟨k, hk⟩ := execSGoodCopy_request hn (hnat.trans_le hmem)
    rw [hk, hnat]
    exact transact_bad h hr (takeBytes_none hbytes)
  case rxData => exact (execReadRxData_request hpos hmem).trans (requestAlone_bad h hr (takeBytes_none hbytes))

end Sys2Proof.Machine
end

section
/-! SUPPORT. The sign extension as an operation on bit vectors (40_sample_decoder.md R122), and the record of a 56-bit word
(30_encoding.md R81). -/

namespace Sys2Proof.Machine

open Sys2Proof.Safety

/-! ### The sign extension -/

/-- Form (b) is two's complement at 18 bits. -/
theorem sext18_eq_toInt (raw : BitVec 18) : sext18 raw = raw.toInt := by
  rw [BitVec.toInt_eq_msb_cond, BitVec.msb_eq_getLsbD_last]
  rfl

theorem toS32_sext18 (raw : BitVec 18) : toS32 (sext18 raw) = raw.signExtend 32 := by
  rw [sext18_eq_toInt]
  rfl

/-- The mask of form (c) tests the sign bit. -/
theorem and_signMask_ne_zero_iff (raw : BitVec 18) : raw &&& 0x20000 ≠ 0 ↔ raw.msb = true := by
  have hmask : (0x20000 : BitVec 18) = BitVec.twoPow 18 17 := rfl
  rw [hmask, BitVec.and_twoPow, BitVec.msb_eq_getLsbD_last]
  cases raw.getLsbD 17 <;> decide

theorem getElem_highMask : ∀ i, (hi : i < 32) → (0xFFFC0000 : Word32)[i] = decide (18 ≤ i) := by decide

/-- Below bit 18 the mask of form (c) leaves the field, and from there on it sets what the sign bit would set. -/
theorem signExtend_of_msb_true {raw : BitVec 18} (h : raw.msb = true) :
    raw.signExtend 32 = raw.setWidth 32 ||| 0xFFFC0000 := by
  ext i hi
  rw [BitVec.getElem_or, getElem_highMask i hi, BitVec.getElem_setWidth, BitVec.getElem_signExtend]
  by_cases hlow : i < 18
  · simp [hlow]
  · simp [h, hlow, Nat.le_of_not_lt hlow]

/-! ### The record of a word -/

/-- Three bytes of a word from bit `k` on, the third modulo 4, are the 18-bit field at `k`. -/
theorem fieldBytes_of_word (w : BitVec 56) (k : Nat) :
    (w.extractLsb' k 8).toNat + 256 * (w.extractLsb' (k + 8) 8).toNat + 65536 * ((w.extractLsb' (k + 16) 8).toNat % 4)
      = w.toNat / 2 ^ k % 262144 := by
  simp only [BitVec.extractLsb'_toNat, Nat.shiftRight_eq_div_pow, Nat.pow_add, ← Nat.div_div_eq_div_mul]
  omega

theorem reOf_recordOfWord (w : BitVec 56) : reOf (recordOfWord w) = fieldValue (w.toNat / 256 % 262144) :=
  congrArg fieldValue (fieldBytes_of_word w 8)

theorem imOf_recordOfWord (w : BitVec 56) : imOf (recordOfWord w) = fieldValue (w.toNat / 4294967296 % 262144) :=
  congrArg fieldValue (fieldBytes_of_word w 32)

end Sys2Proof.Machine
end

section
/-! PROOFS. The statements of 40_sample_decoder.md: O34, O35 and O31. -/

namespace Sys2Proof.Machine

/-- Settles O34: forms (a) and (b) are the branches of `sext18`, and form (c) is the library's `signExtend` by the sign
bit. -/
theorem signExtensionForms : Obligations.SignExtensionForms := by
  intro raw
  refine ⟨fun h => ⟨if_pos h, if_pos h⟩, fun h => if_neg (Bool.eq_false_iff.1 h), ?_⟩
  rw [toS32_sext18]
  split
  next hmask => exact signExtend_of_msb_true ((and_signMask_ne_zero_iff raw).1 hmask)
  next hmask =>
    have hmsb : raw.msb = false := Bool.eq_false_iff.2 (mt (and_signMask_ne_zero_iff raw).2 hmask)
    exact BitVec.signExtend_eq_setWidth_of_msb_false hmsb

/-- Settles O35: `BitVec.toInt` is injective, and `BitVec.ofInt` is its inverse on the range. -/
theorem decodedRangeIsABijection : Obligations.DecodedRangeIsABijection := by
  simp only [Obligations.DecodedRangeIsABijection, sext18_eq_toInt]
  refine ⟨fun raw => ⟨BitVec.le_toInt raw, Int.le_of_lt_add_one BitVec.toInt_lt⟩, fun v hlo hhi => ?_⟩
  have hv : (BitVec.ofInt 18 v).toInt = v := BitVec.toInt_ofInt_eq_self (by decide) hlo (Int.lt_add_one_of_le hhi)
  exact ⟨BitVec.ofInt 18 v, hv, fun _ h => BitVec.eq_of_toInt_eq (h.trans hv.symm)⟩

/-- Settles O31: the fields of the word's bytes are the fields of the word. -/
theorem recordRowDecodes : Obligations.RecordRowDecodes := by
  intro w s
  simp only [exec, execAccRecord, decodeSample_eq, reOf_recordOfWord, imOf_recordOfWord]
  rfl

end Sys2Proof.Machine
end

section
/-! SUPPORT. The two steps of a sample with their data in hand, and the magnitude by its nearest square
(41_cir_window_extractor.md R146, R148, R149). -/

namespace Sys2Proof.Machine

open Sys2Proof.Safety

variable {s : State} {rest : List Response}

/-! ### S_EXT_READ and S_EXT_EMIT -/

theorem idxLow_eq_ofNat (s : State) : idxLow s = BitVec.ofNat 10 (s.idx.toNat % 1024) := by
  rw [← idxLow_toNat, BitVec.ofNat_toNat, BitVec.setWidth_eq]

/-- The sample's READ_ACC by the number of its index (30_encoding.md R98). -/
theorem accWord_idxLow (s : State) : accWord (idxLow s) = accWordOf (s.idx.toNat % 1024) := by
  rw [accWord_eq, idxLow_toNat]

theorem execSExtRead_record {q : Record} (h : s.responses = recordResponse q :: rest) :
    execSExtRead s =
      .next { s.answered (accWord (idxLow s)) (recordResponse q) rest with
        re := toS32 (reOf q), im := toS32 (imOf q), magMilli := BitVec.ofNat 28 (magOf (reOf q) (imOf q))
        st := 0x9 } := by
  rw [execSExtRead, transact_record h]
  simp only [decodeSample_eq]

theorem execSExtEmit_free (h : s.sinkHold = false) :
    execSExtEmit s =
      .next { bumpIdx (emitted s (cirLine s.idx.toNat s.re.toInt s.im.toInt s.magMilli.toNat)) with
        st := if s.idx.toNat + 1 ≤ s.winEnd.toNat then 0x8 else 0xA } :=
  emit_free h

theorem bumpIdx_of_lt (h : s.idx.toNat < 2047) : bumpIdx s = { s with idx := BitVec.ofNat 11 (s.idx.toNat + 1) } :=
  if_pos (Nat.succ_lt_succ h)

/-- `mag_milli` holds the magnitude of a record's sample exactly (10_state.md R33). -/
theorem ofNat_magOf_toNat (q : Record) :
    (BitVec.ofNat 28 (magOf (reOf q) (imOf q))).toNat = magOf (reOf q) (imOf q) := by
  rw [BitVec.toNat_ofNat, Nat.mod_eq_of_lt ((magOf_le (reOf_range q) (imOf_range q)).trans_lt (by decide))]

/-! ### The magnitude (R146) -/

theorem sumsq_cast (a b : Int) : (sumsq a b : Int) = a * a + b * b :=
  Int.toNat_of_nonneg (add_nonneg (mul_self_nonneg a) (mul_self_nonneg b))

/-- Half a unit around the magnitude, in whole numbers: the radicand lies above `m * m - m` and not above
`m * m + m`. -/
theorem magOf_nearest (a b : Int) :
    1000000 * sumsq a b ≤ magOf a b * magOf a b + magOf a b
    ∧ (0 < magOf a b → magOf a b * magOf a b < 1000000 * sumsq a b + magOf a b) := by
  have hlo := Nat.sqrt_le (1000000 * sumsq a b)
  have hhi := Nat.sqrt_le_add (1000000 * sumsq a b)
  simp only [magOf, isqrt_eq_sqrt]
  generalize Nat.sqrt (1000000 * sumsq a b) = q at *
  split
  next hdown => omega
  next hup =>
    have hsq : (q + 1) * (q + 1) = q * q + 2 * q + 1 := by ring
    omega

end Sys2Proof.Machine
end

section
/-! SUPPORT. A step that completes its operation, forwards, and runs that read and print samples
(41_cir_window_extractor.md R150). -/

namespace Sys2Proof.Machine

open Sys2Proof.Safety

variable {s t u : State} {rest : List Response}

/-- Every completed operation is the block's own step. -/
theorem step_of_completes (h : Running s) (hc : Completes s t) : step s = .next t := by
  cases hc with
  | armClear hst => exact step_of_code h hst
  | armReq rest hst hr => exact (step_of_code h hst).trans (show execSArmReq s = _ from transact_ack hr)
  | poll v rest hst hr => exact (step_of_code h hst).trans (show execSPoll s = _ from transact_word hr)
  | goodLen v rest hst hr => exact (step_of_code h hst).trans (show execSGoodLen s = _ from transact_word hr)
  | goodCopy n bs m rest hst hn hmem hr hlen hm =>
    refine (step_of_code h hst).trans (show execSGoodCopy s = _ from ?_)
    simp only [execSGoodCopy, hn, if_neg (Nat.not_lt.2 hmem), transact_bytes hr hlen, State.answered_buf, hm]
  | goodDiag raw other rest hst hr => exact (step_of_code h hst).trans (show execSGoodDiag s = _ from transact_diag hr)
  | repMeta hst hs => exact (step_of_code h hst).trans (show execSRepMeta s = _ from emit_free hs)
  | repBegin hst hs => exact (step_of_code h hst).trans (show execSRepBegin s = _ from emit_free hs)
  | extRead q rest hst hr => exact (step_of_code h hst).trans (execSExtRead_record hr)
  | extEmit hst hs => exact (step_of_code h hst).trans (execSExtEmit_free hs)
  | repEnd hst hs => exact (step_of_code h hst).trans (show execSRepEnd s = _ from emit_free hs)
  | goodClr rest hst hr => exact (step_of_code h hst).trans (show execSGoodClr s = _ from transact_ack hr)
  | errClr rest hst hr => exact (step_of_code h hst).trans (show execSErrClr s = _ from transact_ack hr)

/-- `n` steps of a report from `s` to `t`: they observe `es`, leave the responses `rest`, and write no register but `st`,
`idx` and those of the sample. -/
structure Reports (n : Nat) (s : State) (es : List Event) (rest : List Response) (t : State) : Prop where
  run : Host.Core.run core n s = .next t
  frame : t = { s with
    idx := t.idx, re := t.re, im := t.im, magMilli := t.magMilli, st := t.st, responses := rest
    trace := s.trace ++ es }

theorem Reports.trans {m n : Nat} {es es' : List Event} {rest' : List Response} (h : Reports m s es rest t)
    (h' : Reports n t es' rest' u) : Reports (m + n) s (es ++ es') rest' u where
  run := (run_add m n s t h.run).trans h'.run
  frame := by
    refine h'.frame.trans ?_
    rw [h.frame, ← List.append_assoc]

theorem Reports.running {n : Nat} {es : List Event} (h : Reports n s es rest t) (hrun : Running s) : Running t := by
  rw [h.frame]; exact hrun

theorem Reports.sinkHold_eq {n : Nat} {es : List Event} (h : Reports n s es rest t) : t.sinkHold = s.sinkHold := by
  rw [h.frame]

theorem Reports.winEnd_eq {n : Nat} {es : List Event} (h : Reports n s es rest t) : t.winEnd = s.winEnd := by
  rw [h.frame]

theorem Reports.responses_eq {n : Nat} {es : List Event} (h : Reports n s es rest t) : t.responses = rest := by
  rw [h.frame]

theorem Reports.trace_eq {n : Nat} {es : List Event} (h : Reports n s es rest t) : t.trace = s.trace ++ es := by
  rw [h.frame]

theorem reports_refl (s : State) : Reports 0 s [] s.responses s := ⟨rfl, by rw [List.append_nil]⟩

/-- One completed operation of a report. -/
theorem reports_of_completes {es : List Event} (hrun : Running s) (hc : Completes s t)
    (hframe : t = { s with
      idx := t.idx, re := t.re, im := t.im, magMilli := t.magMilli, st := t.st, responses := rest
      trace := s.trace ++ es }) : Reports 1 s es rest t :=
  ⟨run_succ (step_of_completes hrun hc), hframe⟩

/-- S_EXT_READ takes the record at the index and holds its sample (R148). -/
theorem exists_reports_read {q : Record} (hrun : Running s) (hst : s.st = 0x8) (hidx : s.idx.toNat ≤ s.winEnd.toNat)
    (hr : s.responses = recordResponse q :: rest) :
    ∃ t, Reports 1 s [.request (accWordOf s.idx.toNat) (recordResponse q)] rest t ∧ t.st = 0x9 ∧ t.idx = s.idx
      ∧ t.re.toInt = reOf q ∧ t.im.toInt = imOf q ∧ t.magMilli.toNat = magOf (reOf q) (imOf q) := by
  have hword : accWord (idxLow s) = accWordOf s.idx.toNat := by
    rw [accWord_idxLow, Nat.mod_eq_of_lt (hidx.trans_lt s.winEnd.isLt)]
  rw [← hword]
  exact ⟨_, reports_of_completes hrun (.extRead q rest hst hr) rfl, rfl, rfl, toS32_toInt (reOf_range q),
    toS32_toInt (imOf_range q), ofNat_magOf_toNat q⟩

/-- S_EXT_EMIT prints the sample it holds, and the code says whether the window goes on (R149). -/
theorem exists_reports_print (hrun : Running s) (hs : s.sinkHold = false) (hst : s.st = 0x9)
    (hidx : s.idx.toNat ≤ s.winEnd.toNat) :
    ∃ t, Reports 1 s [.line (cirLine s.idx.toNat s.re.toInt s.im.toInt s.magMilli.toNat)] s.responses t
      ∧ t.idx.toNat = s.idx.toNat + 1 ∧ t.st = if s.idx.toNat + 1 ≤ s.winEnd.toNat then 0x8 else 0xA := by
  have hlt : s.idx.toNat < 2047 := by have := s.winEnd.isLt; omega
  refine ⟨_, reports_of_completes hrun (.extEmit hst hs) ?_, bumpIdx_idx (emitted s _) hlt, rfl⟩
  rw [bumpIdx_of_lt (show (emitted s _).idx.toNat < 2047 from hlt)]
  rfl

/-- The two steps of one index of the window: the line prints the sample that was read. -/
theorem exists_reports_sample {q : Record} (hrun : Running s) (hs : s.sinkHold = false) (hst : s.st = 0x8)
    (hidx : s.idx.toNat ≤ s.winEnd.toNat) (hr : s.responses = recordResponse q :: rest) :
    ∃ t, Reports 2 s [.request (accWordOf s.idx.toNat) (recordResponse q),
        .line (cirLine s.idx.toNat (reOf q) (imOf q) (magOf (reOf q) (imOf q)))] rest t
      ∧ t.idx.toNat = s.idx.toNat + 1 ∧ t.st = if s.idx.toNat + 1 ≤ s.winEnd.toNat then 0x8 else 0xA := by
  obtain ⟨u, hread, hust, huidx, hre, him, hmag⟩ := exists_reports_read hrun hst hidx hr
  obtain ⟨t, hprint, hnext, hcode⟩ := exists_reports_print (hread.running hrun) (hread.sinkHold_eq.trans hs) hust
    (by rw [huidx, hread.winEnd_eq]; exact hidx)
  rw [hre, him, hmag, huidx, hread.responses_eq] at hprint
  rw [huidx] at hnext
  rw [huidx, hread.winEnd_eq] at hcode
  exact ⟨t, hread.trans hprint, hnext, hcode⟩

/-- The rest of the window, from the index `idx` on: the code tells whether there is one. -/
theorem exists_reports_samples {rs : List Record} (hrun : Running s) (hs : s.sinkHold = false)
    (hst : s.st = if s.idx.toNat ≤ s.winEnd.toNat then 0x8 else 0xA)
    (hlen : s.idx.toNat + rs.length = s.winEnd.toNat + 1) (hr : s.responses = rs.map recordResponse ++ rest) :
    ∃ t, Reports (2 * rs.length) s (sampleEvents s.idx.toNat rs) rest t ∧ t.st = 0xA
      ∧ t.idx.toNat = s.winEnd.toNat + 1 := by
  induction rs generalizing s with
  | nil =>
    have hpast : s.idx.toNat = s.winEnd.toNat + 1 := hlen
    have hst : s.st = 0xA := hst.trans (if_neg (by omega))
    have hr : s.responses = rest := hr
    exact ⟨s, hr ▸ reports_refl s, hst, hpast⟩
  | cons q rs ih =>
    rw [List.length_cons] at hlen ⊢
    have hidx : s.idx.toNat ≤ s.winEnd.toNat := by omega
    obtain ⟨t, hsample, hnext, hcode⟩ := exists_reports_sample hrun hs (hst.trans (if_pos hidx)) hidx hr
    rw [← hsample.winEnd_eq] at hlen hcode ⊢
    rw [← hnext] at hcode
    obtain ⟨u, hrest, hend⟩ := ih (hsample.running hrun) (hsample.sinkHold_eq.trans hs) hcode (by omega)
      hsample.responses_eq
    rw [hnext] at hrest
    have hsteps : 2 * (rs.length + 1) = 2 + 2 * rs.length := by omega
    rw [hsteps]
    exact ⟨u, hsample.trans hrest, hend⟩

/-- S_REP_META and S_REP_BEGIN open the group and go to the first index of the window (42_diagnostics_framer.md R171,
R172). -/
theorem exists_reports_open (hrun : Running s) (hs : s.sinkHold = false) (hst : s.st = 0x6) :
    ∃ t, Reports 2 s [.line (metaLine s.fp.toNat s.winStart.toNat s.winEnd.toNat), .line beginLine] s.responses t
      ∧ t.idx.toNat = s.winStart.toNat ∧ t.st = if s.winStart.toNat ≤ s.winEnd.toNat then 0x8 else 0xA := by
  have hmeta := reports_of_completes (es := [.line (metaLine s.fp.toNat s.winStart.toNat s.winEnd.toNat)])
    (rest := s.responses) hrun (.repMeta hst hs) rfl
  have hbegin := reports_of_completes (es := [.line beginLine]) (rest := s.responses) (hmeta.running hrun)
    (.repBegin rfl hs) rfl
  have hidx : (s.winStart.setWidth 11).toNat = s.winStart.toNat :=
    BitVec.toNat_setWidth_of_le (by decide)
  exact ⟨_, hmeta.trans hbegin, hidx, rfl⟩

/-- A report from its metadata line to its end marker (R150; 42_diagnostics_framer.md R174). -/
theorem exists_reports_group {rs : List Record} (hrun : Running s) (hs : s.sinkHold = false) (hst : s.st = 0x6)
    (hstart : s.winStart.toNat = startOf s.fp.toNat) (hstop : s.winEnd.toNat = stopOf s.fp.toNat)
    (hlen : rs.length = stopOf s.fp.toNat - startOf s.fp.toNat + 1) (hr : s.responses = rs.map recordResponse ++ rest) :
    ∃ t, Reports (3 + 2 * rs.length) s (groupEvents s.fp.toNat rs) rest t ∧ t.st = 0xB
      ∧ t.idx.toNat = stopOf s.fp.toNat + 1 := by
  have hwin : startOf s.fp.toNat ≤ stopOf s.fp.toNat := by have := s.fp.isLt; unfold startOf stopOf; omega
  obtain ⟨t, hopen, hidx, hcode⟩ := exists_reports_open hrun hs hst
  rw [← hidx, ← hopen.winEnd_eq] at hcode
  rw [hstart] at hidx
  have hs := hopen.sinkHold_eq.trans hs
  obtain ⟨u, hsamples, hust, huidx⟩ := exists_reports_samples (hopen.running hrun) hs hcode
    (by rw [hopen.winEnd_eq]; omega) (hopen.responses_eq.trans hr)
  have hend := reports_of_completes (es := [.line endLine]) (rest := u.responses)
    (hsamples.running (hopen.running hrun)) (.repEnd hust (hsamples.sinkHold_eq.trans hs)) rfl
  rw [hopen.winEnd_eq, hstop] at huidx
  have hgroup := (hopen.trans hsamples).trans hend
  have hsteps : 2 + 2 * rs.length + 1 = 3 + 2 * rs.length := by omega
  rw [hstart, hstop, hidx, hsamples.responses_eq, hsteps] at hgroup
  exact ⟨_, hgroup, rfl, huidx⟩

end Sys2Proof.Machine
end

section
/-! PROOFS. The statements of 41_cir_window_extractor.md: O40, O54, O22, O23, O24 and O38. -/

namespace Sys2Proof.Machine

open Sys2Proof.Safety

/-- Settles O40: `magOf_nearest` doubled and squared, and the largest sample. -/
theorem magnitudeIsNearest : Obligations.MagnitudeIsNearest := by
  intro a b
  obtain ⟨habove, hbelow⟩ := magOf_nearest a b
  rw [← sumsq_cast]
  refine ⟨?_, fun hpos => ?_, fun halo hahi hblo hbhi => magOf_le ⟨halo, hahi⟩ ⟨hblo, hbhi⟩⟩
  · zify at habove
    linarith
  · have hbelow := Nat.succ_le_of_lt (hbelow hpos)
    zify at hbelow
    linarith

/-- Settles O54: the report of the window, by `exists_reports_group`. -/
theorem groupRun : Obligations.GroupRun := by
  intro s fp rs rest hrun hs hst _ hfp hstart hstop hlen hr
  subst hfp
  obtain ⟨t, hgroup, htst, hidx⟩ := exists_reports_group hrun hs hst hstart hstop hlen hr
  exact ⟨t, hgroup.run, htst, hgroup.responses_eq, hidx, hgroup.trace_eq⟩

/-- Settles O22: S_EXT_READ is one transaction of READ_ACC, and F_ACC_READ is the fault that records the index. -/
theorem extReadEffect : Obligations.ExtReadEffect := by
  intro s rest
  rw [← accWord_idxLow]
  refine ⟨fun r h => execSExtRead_record h, fun h => ?_⟩
  rw [← idxLow_eq_ofNat]
  change execSExtRead s = _
  exact transact_fault h

/-- Settles O23: below 2047 the index advances by one. -/
theorem extEmitEffect : Obligations.ExtEmitEffect := by
  intro s hs hidx
  refine (execSExtEmit_free hs).trans ?_
  rw [bumpIdx_of_lt (show (emitted s _).idx.toNat < 2047 from hidx)]
  rfl

/-- Settles O24: the index and the counter of free values are all that `bumpIdx` changes, and no window reaches 2048. -/
theorem extEmitAtTheTop : Obligations.ExtEmitAtTheTop := by
  intro s hs hidx
  have hpast : ¬ 2047 + 1 ≤ s.winEnd.toNat := by have := s.winEnd.isLt; omega
  refine ⟨_, execSExtEmit_free hs, ?_⟩
  rw [bumpIdx_eq, hidx, if_neg hpast]

/-- Settles O38: the bounds are clamped sums and differences of numbers. -/
theorem windowBounds : Obligations.WindowBounds := by
  intro fp
  have hfp := fp.isLt
  have hstart := windowStart_toNat fp
  have hstop := windowEnd_toNat fp
  unfold startOf at hstart
  unfold stopOf at hstop
  omega

end Sys2Proof.Machine
end

section
/-! SUPPORT. The telemetry as complete groups and an open one (42_diagnostics_framer.md R174, R176), first as lists of
lines, then by the phases of a run. -/

namespace Sys2Proof.Machine

open Sys2Proof.Safety

/-! ### Lines of an observation -/

theorem linesOf_append (es es' : List Event) : linesOf (es ++ es') = linesOf es ++ linesOf es' := by
  induction es with
  | nil => rfl
  | cons e es ih =>
    cases e with
    | line bs => exact congrArg (bs :: ·) ih
    | request w r => exact ih
    | sample re im => exact ih

@[simp] theorem linesOf_append_request (es : List Event) (w : BitVec 64) (r : Response) :
    linesOf (es ++ [.request w r]) = linesOf es :=
  (linesOf_append es _).trans (List.append_nil _)

@[simp] theorem linesOf_append_line (es : List Event) (bs : List Byte) :
    linesOf (es ++ [.line bs]) = linesOf es ++ [bs] := linesOf_append es _

@[simp] theorem linesOf_emitted (s : State) (bs : List Byte) :
    linesOf (emitted s bs).trace = linesOf s.trace ++ [bs] := linesOf_append_line _ _

/-! ### Groups of lines -/

theorem cirLinesFrom_append_sample (i : Nat) (ps : List (Int × Int)) (a b : Int) :
    cirLinesFrom i (ps ++ [(a, b)]) = cirLinesFrom i ps ++ [cirLine (i + ps.length) a b (magOf a b)] := by
  induction ps generalizing i with
  | nil => rfl
  | cons p ps ih =>
    have hindex : i + 1 + ps.length = i + (ps.length + 1) := by omega
    simp only [List.cons_append, cirLinesFrom, ih, List.length_cons, hindex]

theorem inRange_append_sample {ps : List (Int × Int)} (h : InRange ps) {a b : Int} (ha : -131072 ≤ a ∧ a ≤ 131071)
    (hb : -131072 ≤ b ∧ b ≤ 131071) : InRange (ps ++ [(a, b)]) :=
  List.forall_mem_append.2 ⟨h, List.forall_mem_singleton.2 ⟨ha.1, ha.2, hb.1, hb.2⟩⟩

/-- Complete groups, then a group of the snapshot index `raw` that has its samples from `start` to before `n` and no end
marker. -/
def OpenUpTo (raw : BitVec 16) (start n : Nat) (ls : List (List Byte)) : Prop :=
  ∃ done ps, ls = done ++ openGroup raw ps ∧ Groups done ∧ InRange ps ∧ start + ps.length = n

variable {raw : BitVec 16} {n : Nat} {ls : List (List Byte)}

/-- The begin marker after the metadata line (R171, R172). -/
theorem openUpTo_begin (start : Nat) (h : Groups ls) :
    OpenUpTo raw start start
      (ls ++ [metaLine (fpOf raw) (startOf (fpOf raw)) (stopOf (fpOf raw))] ++ [beginLine]) :=
  ⟨ls, [], List.append_assoc _ _ _, h, List.forall_mem_nil _, rfl⟩

/-- The CIR line of the next index (41_cir_window_extractor.md R149). -/
theorem OpenUpTo.sample (h : OpenUpTo raw (startOf (fpOf raw)) n ls) {a b : Int} (ha : -131072 ≤ a ∧ a ≤ 131071)
    (hb : -131072 ≤ b ∧ b ≤ 131071) :
    OpenUpTo raw (startOf (fpOf raw)) (n + 1) (ls ++ [cirLine n a b (magOf a b)]) := by
  obtain ⟨done, ps, rfl, hdone, hps, rfl⟩ := h
  refine ⟨done, ps ++ [(a, b)], ?_, hdone, inRange_append_sample hps ha hb, by simp [Nat.add_assoc]⟩
  simp only [openGroup, cirLinesFrom_append_sample, List.cons_append, List.append_assoc]

/-- The end marker once the window has been visited (R173). -/
theorem OpenUpTo.close (h : OpenUpTo raw (startOf (fpOf raw)) (stopOf (fpOf raw) + 1) ls) :
    Groups (ls ++ [endLine]) := by
  obtain ⟨done, ps, rfl, hdone, hps, hlen⟩ := h
  refine .more done raw ps hdone hps ?_
  have hle := fpOf_le raw
  unfold startOf stopOf at *
  omega

/-! ### `Framed`, phase by phase -/

/-- The state codes outside a report, S_REP_META included, which has put nothing out yet. -/
def OutsideReport (s : State) : Prop := Between s 0 6 ∨ Between s 11 12

variable {s t : State}

theorem codes_of_outsideReport (h : OutsideReport s) :
    s.st ≠ 0x7 ∧ ¬ Between s 8 9 ∧ s.st ≠ 0xA ∧ s.st ≠ 0xD := by
  unfold OutsideReport Between at *
  bv_omega

theorem framed_iff_of_outsideReport (hst : OutsideReport s) : Framed s ↔ Groups (linesOf s.trace) := by
  obtain ⟨h7, h89, hA, hD⟩ := codes_of_outsideReport hst
  constructor
  · rintro ⟨done, part, hlines, hdone, hidle, -⟩
    rwa [hlines, hidle hst, List.append_nil]
  · exact fun h => ⟨_, [], (List.append_nil _).symm, h, fun _ => rfl, (absurd · h7), (absurd · h89), (absurd · hA),
      (absurd · hD)⟩

theorem framed_iff_of_begin (hst : s.st = 0x7) :
    Framed s ↔ ∃ done, linesOf s.trace = done ++ [metaLine s.fp.toNat s.winStart.toNat s.winEnd.toNat]
      ∧ Groups done := by
  simp [Framed, Between, hst]

theorem framed_iff_of_visiting (hst : s.st = 0x8 ∨ s.st = 0x9) :
    Framed s ↔ OpenUpTo s.fpRaw s.winStart.toNat s.idx.toNat (linesOf s.trace) := by
  rcases hst with hst | hst <;> simp [Framed, OpenUpTo, Between, hst]

theorem framed_iff_of_end (hst : s.st = 0xA) :
    Framed s ↔ OpenUpTo s.fpRaw s.winStart.toNat (s.winEnd.toNat + 1) (linesOf s.trace) := by
  simp [Framed, OpenUpTo, Between, hst]

theorem framed_iff_of_faulted (hst : s.st = 0xD) :
    Framed s ↔ Groups (linesOf s.trace) ∨ OpenUpTo s.fpRaw s.winStart.toNat s.idx.toNat (linesOf s.trace) := by
  constructor
  · rintro ⟨done, part, hlines, hdone, -, -, -, -, hfault⟩
    rcases hfault hst with rfl | ⟨ps, hps, hlen, rfl⟩
    · exact Or.inl (by rwa [hlines, List.append_nil])
    · exact Or.inr ⟨done, ps, hlines, hdone, hps, hlen⟩
  · rintro (h | ⟨done, ps, hlines, hdone, hps, hlen⟩)
    · exact ⟨_, [], (List.append_nil _).symm, h, by simp [Between, hst]⟩
    · refine ⟨done, _, hlines, hdone, ?_, ?_, ?_, ?_, fun _ => Or.inr ⟨ps, hps, hlen, rfl⟩⟩ <;> simp [Between, hst]

/-! ### The steps of a report -/

/-- The window of a report by the snapshot's index (R170; 41_cir_window_extractor.md R140). -/
theorem window_of_fpRaw (h : Reporting s) :
    s.fp.toNat = fpOf s.fpRaw ∧ s.winStart.toNat = startOf (fpOf s.fpRaw) ∧ s.winEnd.toNat = stopOf (fpOf s.fpRaw) := by
  obtain ⟨hfp, hstart, hend⟩ := h.window
  exact ⟨hfp, hfp ▸ hstart, hfp ▸ hend⟩

/-- S_REP_BEGIN: the group of the snapshot's index is open, with no sample yet, and its window is never empty. -/
theorem framed_repBegin (hr : Reporting s) (hst : s.st = 0x7) (hf : Framed s) :
    Framed { emitted s beginLine with
      idx := s.winStart.setWidth 11, st := if s.winStart.toNat ≤ s.winEnd.toNat then 0x8 else 0xA } := by
  obtain ⟨hfp, hstart, hend⟩ := window_of_fpRaw hr
  obtain ⟨hle, -⟩ := window_of_reporting hr
  obtain ⟨done, hlines, hdone⟩ := (framed_iff_of_begin hst).1 hf
  have hidx : (s.winStart.setWidth 11).toNat = s.winStart.toNat := BitVec.toNat_setWidth_of_le (by decide)
  rw [hfp, hstart, hend] at hlines
  rw [if_pos hle]
  refine (framed_iff_of_visiting (Or.inl rfl)).2 ?_
  simp only [linesOf_emitted, hidx, hlines]
  exact openUpTo_begin _ hdone

/-- S_EXT_EMIT: one more sample is out, and the window goes on or is complete. -/
theorem framed_extEmit (hr : Reporting s) (hst : s.st = 0x9) (hidx : InWindow s) (hs : HoldsSample s) (hf : Framed s) :
    Framed { bumpIdx (emitted s (cirLine s.idx.toNat s.re.toInt s.im.toInt s.magMilli.toNat)) with
      st := if s.idx.toNat + 1 ≤ s.winEnd.toNat then 0x8 else 0xA } := by
  obtain ⟨-, hstart, -⟩ := window_of_fpRaw hr
  obtain ⟨-, hcap⟩ := window_of_reporting hr
  obtain ⟨-, hhi⟩ := hidx
  obtain ⟨a, b, halo, hahi, hblo, hbhi, hre, him, hmag⟩ := hs
  have hopen := (framed_iff_of_visiting (Or.inr hst)).1 hf
  rw [hstart] at hopen
  have hnext := hopen.sample ⟨halo, hahi⟩ ⟨hblo, hbhi⟩
  have hbump : (bumpIdx (emitted s (cirLine s.idx.toNat a b (magOf a b)))).idx.toNat = s.idx.toNat + 1 :=
    bumpIdx_idx (emitted s _) (by show s.idx.toNat < 2047; omega)
  rw [← hstart] at hnext
  rw [hre, him, hmag]
  split
  next hin =>
    refine (framed_iff_of_visiting (Or.inl rfl)).2 ?_
    simp only [bumpIdx_fpRaw, bumpIdx_winStart, bumpIdx_trace, hbump, linesOf_emitted]
    exact hnext
  next hout =>
    have hlast : s.idx.toNat + 1 = s.winEnd.toNat + 1 := by omega
    rw [hlast] at hnext
    refine (framed_iff_of_end rfl).2 ?_
    simp only [bumpIdx_fpRaw, bumpIdx_winStart, bumpIdx_winEnd, bumpIdx_trace, linesOf_emitted]
    exact hnext

/-- S_REP_END: the group is complete. -/
theorem framed_repEnd (hr : Reporting s) (hst : s.st = 0xA) (hf : Framed s) :
    Framed { emitted s endLine with st := 0xB } := by
  obtain ⟨-, hstart, hend⟩ := window_of_fpRaw hr
  have hopen := (framed_iff_of_end hst).1 hf
  rw [hstart, hend] at hopen
  refine (framed_iff_of_outsideReport (by simp [OutsideReport, Between])).2 ?_
  simp only [linesOf_emitted]
  exact hopen.close

/-! ### Every step -/

/-- Between two codes outside the report, no new line is out. -/
theorem framed_of_outsideReport (hs : OutsideReport s) (ht : OutsideReport t) (hlines : linesOf t.trace = linesOf s.trace)
    (hf : Framed s) : Framed t :=
  (framed_iff_of_outsideReport ht).2 (hlines ▸ (framed_iff_of_outsideReport hs).1 hf)

/-- A completed operation keeps the telemetry in groups. -/
theorem framed_of_completes (hi : Inv s) (hf : Framed s) (h : Completes s t) : Framed t := by
  cases h with
  | armClear hst | armReq _ hst | goodCopy _ _ _ _ hst | goodDiag _ _ _ hst | goodClr _ hst | errClr _ hst =>
    exact framed_of_outsideReport (by simp [OutsideReport, Between, hst]) (by simp [OutsideReport, Between]) (by simp) hf
  | poll v rest hst =>
    refine framed_of_outsideReport (by simp [OutsideReport, Between, hst]) ?_ (by simp) hf
    rcases pollTarget_cases (classOf s.params v) with hc | hc | hc <;> simp [OutsideReport, Between, hc]
  | goodLen v rest hst =>
    refine framed_of_outsideReport (by simp [OutsideReport, Between, hst]) ?_ (by simp) hf
    dsimp only [OutsideReport, Between]
    split <;> decide
  | repMeta hst =>
    have hgroups := (framed_iff_of_outsideReport (by simp [OutsideReport, Between, hst])).1 hf
    exact (framed_iff_of_begin rfl).2 ⟨_, linesOf_emitted s _, hgroups⟩
  | repBegin hst => exact framed_repBegin (reporting_of_inv hi (by simp [Between, hst])) hst hf
  | extRead q rest hst =>
    have hopen := (framed_iff_of_visiting (Or.inl hst)).1 hf
    exact (framed_iff_of_visiting (Or.inr rfl)).2 (by simpa using hopen)
  | extEmit hst =>
    exact framed_extEmit (reporting_of_inv hi (by simp [Between, hst])) hst (hi.visiting (by simp [Between, hst]))
      (hi.sample hst) hf
  | repEnd hst => exact framed_repEnd (reporting_of_inv hi (by simp [Between, hst])) hst hf

/-- A fault is raised outside the report or before a sample is read (60_exceptions.md R231). -/
theorem outsideReport_or_reading_of_faultRow {c : Code} (h : FaultRow c s.st) : OutsideReport s ∨ s.st = 0x8 := by
  rcases h with h | h | h | h | h | h | h | h <;> simp [OutsideReport, Between, h.2]

/-- Fault entry leaves the lines as they are, and a begun group unended (60_exceptions.md R233). -/
theorem framed_of_fault {w : BitVec 64} {c : Code} {rest : List Response} (hrow : FaultRow c s.st) (hf : Framed s) :
    Framed ((s.answered w .fault rest).raiseFault c) := by
  refine (framed_iff_of_faulted rfl).2 ?_
  simp only [State.raiseFault_trace, State.answered_trace, linesOf_append_request]
  rcases outsideReport_or_reading_of_faultRow hrow with hst | hst
  · exact Or.inl ((framed_iff_of_outsideReport hst).1 hf)
  · exact Or.inr ((framed_iff_of_visiting (Or.inl hst)).1 hf)

/-- A step of the block itself keeps the telemetry in groups. -/
theorem framed_of_blockStep (hi : Inv s) (hf : Framed s) (h : BlockStep s t) : Framed t := by
  cases h with
  | stopped => exact hf
  | waits => exact hf
  | badState hst => exact absurd (hst.trans hi.code) (by decide)
  | faults w c rest hrow => exact framed_of_fault hrow hf
  | completes h => exact framed_of_completes hi hf h

/-- Nothing has gone out of a block in S_ARM_CLEAR with an empty observation. -/
theorem framed_of_trace_nil (hst : s.st = 0x0) (htrace : s.trace = []) : Framed s := by
  refine (framed_iff_of_outsideReport (by simp [OutsideReport, Between, hst])).2 ?_
  rw [htrace]
  exact .none

end Sys2Proof.Machine
end

section
/-! PROOFS. The statements of 42_diagnostics_framer.md: O50, O19, O20 and O21. -/

namespace Sys2Proof.Machine

open Sys2Proof.Safety

/-- Settles O50: a reset empties the observation; any other step is one of `BlockStep`. -/
theorem telemetryIsGroups : Obligations.TelemetryIsGroups := by
  refine ⟨fun _ _ => framed_of_trace_nil rfl rfl, fun s t hi hf ht => ?_⟩
  by_cases hr : s.rstIn = true
  · obtain rfl := Host.Outcome.next.inj ((step_reset hi.params hr).symm.trans ht)
    exact framed_of_trace_nil rfl rfl
  · exact framed_of_blockStep hi hf (step_blockStep ⟨hi.params, Bool.eq_false_iff.2 hr, hi.bench⟩ ht)

/-- Settles O19: the sink takes the line. -/
theorem repMetaEffect : Obligations.RepMetaEffect := fun s h =>
  show execSRepMeta s = _ from emit_free h

/-- Settles O20: the begin marker spelled out, and `win_start` widened to the bits of `idx`. -/
theorem repBeginEffect : Obligations.RepBeginEffect := by
  intro s h
  rw [BitVec.ofNat_toNat]
  change execSRepBegin s = _
  exact emit_free h

/-- Settles O21: the end marker spelled out. -/
theorem repEndEffect : Obligations.RepEndEffect := fun s h =>
  show execSRepEnd s = _ from emit_free h

end Sys2Proof.Machine
end

section
/-! SUPPORT. The operations of 43_receive_state_machine.md in the words of the claims: the class of a status (R194), the
request that gets FAULT (60_exceptions.md R233), and S_GOOD_COPY with its length in hand (R197). -/

namespace Sys2Proof.Machine

open Sys2Proof.Safety

variable {p : Config.Params} {v : Word32} {s : State} {rest : List Response}

/-! ### The class of a status (R194) -/

theorem classOf_of_good (h : v &&& p.goodMask ≠ 0) : classOf p v = .good := if_pos h

theorem classOf_of_error (hg : v &&& p.goodMask = 0) (he : v &&& p.errMask ≠ 0) : classOf p v = .error :=
  (if_neg (not_not.2 hg)).trans (if_pos he)

theorem classOf_of_pending (hg : v &&& p.goodMask = 0) (he : v &&& p.errMask = 0) : classOf p v = .pending :=
  (if_neg (not_not.2 hg)).trans (if_neg (not_not.2 he))

/-- Each class with its successor state (R193). -/
theorem pollTarget_classOf (p : Config.Params) (v : Word32) :
    pollTarget (classOf p v) = if v &&& p.goodMask ≠ 0 then 0x3 else if v &&& p.errMask ≠ 0 then 0xC else 0x2 := by
  unfold classOf
  rw [apply_ite pollTarget, apply_ite pollTarget]
  rfl

/-- Clearing the bits outside two masks leaves what either mask selects (R194). -/
theorem and_or_and_left (v m m' : Word32) : v &&& (m ||| m') &&& m = v &&& m := by
  ext i hi
  simp only [BitVec.getElem_and, BitVec.getElem_or]
  grind

/-! ### A request that gets FAULT -/

/-- A code other than F_ACC_READ records no index (R233). -/
theorem transact_faultedBy {α : Type} {w : BitVec 64} {take : Response → Option α} {c : Code}
    {k : α → State → Result} (hc : c ≠ fAccRead) (h : s.responses = .fault :: rest) :
    transact w take c s k = .next (faultedBy s w rest c 0) := by
  rw [transact_fault h, State.raiseFault, if_neg hc]
  rfl

/-! ### S_GOOD_COPY (R197) -/

theorem payloadLen_none {f : Word32} (h : f.toNat ≤ 2 ∨ 65538 ≤ f.toNat) : payloadLen f = none := by
  refine if_neg ?_
  rw [Config.trailerLen]
  omega

theorem payloadLen_of_toNat {f : Word32} {n : BitVec 16} (h : f.toNat = n.toNat + 2) (hpos : 1 ≤ n.toNat) :
    payloadLen f = some n := by
  rw [payloadLen_eq h hpos n.isLt, BitVec.ofNat_toNat, BitVec.setWidth_eq]

variable {n : BitVec 16} {bs : List Byte}

theorem execSGoodCopy_noMemory (hn : payloadLen s.frameLen = some n) (hmem : s.params.rxmemSize < n.toNat) :
    execSGoodCopy s = .fault .noSuchRxByte := by
  simp only [execSGoodCopy, hn, if_pos hmem]

/-- The payload goes to the buffer where every byte of it has an address. -/
theorem execSGoodCopy_bytes {m : Memory} (hn : payloadLen s.frameLen = some n) (hmem : n.toNat ≤ s.params.rxmemSize)
    (hr : s.responses = .bytes bs :: rest) (hlen : bs.length = n.toNat) (hm : Memory.writeBytes s.buf 0 bs = some m) :
    execSGoodCopy s =
      .next { s.answered (rxDataWord n) (.bytes bs) rest with buf := m, payLen := n.setWidth 8, st := 0x5 } := by
  simp only [execSGoodCopy, hn, if_neg (Nat.not_lt.2 hmem), transact_bytes hr hlen, State.answered_buf, hm]

/-- A payload byte without an address stops the operation (10_state.md R27). -/
theorem execSGoodCopy_noAddress (hn : payloadLen s.frameLen = some n) (hmem : n.toNat ≤ s.params.rxmemSize)
    (hr : s.responses = .bytes bs :: rest) (hlen : bs.length = n.toNat) (hm : Memory.writeBytes s.buf 0 bs = none) :
    execSGoodCopy s = .fault .noSuchBufferByte := by
  simp only [execSGoodCopy, hn, if_neg (Nat.not_lt.2 hmem), transact_bytes hr hlen, State.answered_buf, hm]

end Sys2Proof.Machine
end

section
/-! PROOFS. The statements of 43_receive_state_machine.md on one operation: O10 to O18 and O45. -/

namespace Sys2Proof.Machine

open Sys2Proof.Safety

/-- Settles O10: the cleared buffer by its reads. -/
theorem armClearEffect : Obligations.ArmClearEffect := fun _ =>
  ⟨_, rfl, rfl, fun k hk => (Memory.read_cleared k).trans (if_pos hk),
    fun k hk => (Memory.read_cleared k).trans (if_neg (Nat.not_lt.2 hk))⟩

/-- Settles O11: one transaction of ARM_RX. -/
theorem armReqEffect : Obligations.ArmReqEffect := by
  intro s rest
  change (_ → execSArmReq s = _) ∧ (_ → execSArmReq s = _)
  rw [← armWord_eq]
  exact ⟨transact_ack, transact_faultedBy (by decide)⟩

/-- Settles O12: one transaction of READ_REG32, and the successor of the status's class. -/
theorem pollEffect : Obligations.PollEffect := by
  intro s rest
  change (∀ w, _ → execSPoll s = _) ∧ (_ → execSPoll s = _)
  rw [← regReadWord_ridStatus]
  refine ⟨fun v h => ?_, transact_faultedBy (by decide)⟩
  rw [← pollTarget_classOf]
  exact transact_word h

/-- Settles O13: one transaction of READ_REG32, and the test of R196 on the length field. -/
theorem goodLenEffect : Obligations.GoodLenEffect := by
  intro s rest
  change (∀ w, _ → execSGoodLen s = _) ∧ (_ → execSGoodLen s = _)
  rw [← regReadWord_ridRxinfo]
  refine ⟨fun v h => ?_, transact_faultedBy (by decide)⟩
  simp only [← copyTaken_iff]
  exact transact_word h

/-- Settles O14: one transaction of READ_RX_DATA, and the buffer by `Memory.read_writeBytes`. -/
theorem goodCopyEffect : Obligations.GoodCopyEffect := by
  intro s rest n hframe hpos hlt hmem
  obtain ⟨n, rfl⟩ : ∃ m : BitVec 16, m.toNat = n := ⟨.ofNatLT n hlt, rfl⟩
  have hn := payloadLen_of_toNat hframe hpos
  rw [← rxDataWord_eq, BitVec.ofNat_toNat]
  refine ⟨fun bs hr hlen hfits => ?_, fun hr => ?_⟩
  · obtain ⟨m, hm⟩ := Memory.writeBytes_isSome s.buf 0 bs (show 0 + bs.length ≤ 127 by omega)
    have hread := Memory.read_writeBytes hm
    refine ⟨_, execSGoodCopy_bytes hn hmem hr hlen hm, rfl, fun k hk => ?_, fun k hk => ?_⟩
    · exact (hread k).trans (if_pos (by omega))
    · exact (hread k).trans (if_neg (by omega))
  · obtain ⟨k, hk⟩ := execSGoodCopy_request hn hmem
    exact hk.trans (transact_faultedBy (by decide) hr)

/-- Settles O15: the lengths without a request word, without a receive memory and without a buffer address. -/
theorem goodCopyStops : Obligations.GoodCopyStops := by
  intro s
  refine ⟨fun hframe => ?noWord, fun n hframe hpos hlt hmem => ?noMemory,
    fun n bs rest hframe hlong hlt hmem hr hlen => ?noAddress, rfl, fun len hpos hmem => ?row⟩
  case noWord =>
    change execSGoodCopy s = _
    simp only [execSGoodCopy, payloadLen_none hframe]
  case noMemory =>
    obtain ⟨n, rfl⟩ : ∃ m : BitVec 16, m.toNat = n := ⟨.ofNatLT n hlt, rfl⟩
    exact execSGoodCopy_noMemory (payloadLen_of_toNat hframe hpos) hmem
  case noAddress =>
    obtain ⟨n, rfl⟩ : ∃ m : BitVec 16, m.toNat = n := ⟨.ofNatLT n hlt, rfl⟩
    have hnone := Memory.writeBytes_none s.buf 0 bs (show 127 < 0 + bs.length by omega) (Nat.zero_le _)
    exact execSGoodCopy_noAddress (payloadLen_of_toNat hframe (by omega)) hmem hr hlen hnone
  case row =>
    have hne : len ≠ 0 := by rintro rfl; exact absurd hpos (by decide)
    exact (if_neg hne).trans (if_pos hmem)

/-- Settles O16: one transaction of READ_DIAG, and the window of the substituted index. -/
theorem goodDiagEffect : Obligations.GoodDiagEffect := by
  intro s rest
  change (∀ _ _ _, _ → _ → execSGoodDiag s = _) ∧ (_ → execSGoodDiag s = _)
  rw [← diagWord_eq]
  refine ⟨fun raw other f h hf => ?_, transact_faultedBy (by decide)⟩
  have hfp : (substFp raw).toNat = f := (substFp_toNat raw).trans hf.symm
  rw [execSGoodDiag, transact_diag h, ← hfp, BitVec.ofNat_toNat, BitVec.setWidth_eq]
  rfl

/-- Settles O17: one transaction of WRITE_CLEAR32. -/
theorem goodClrEffect : Obligations.GoodClrEffect := by
  intro s rest
  change (_ → execSGoodClr s = _) ∧ (_ → execSGoodClr s = _)
  rw [← clearWord_eq]
  exact ⟨transact_ack, transact_faultedBy (by decide)⟩

/-- Settles O18: one transaction of WRITE_CLEAR32. -/
theorem errClrEffect : Obligations.ErrClrEffect := by
  intro s rest
  change (_ → execSErrClr s = _) ∧ (_ → execSErrClr s = _)
  rw [← clearWord_eq]
  exact ⟨transact_ack, transact_faultedBy (by decide)⟩

/-- Settles O45: the three cases of the two masks, frame-good first. -/
theorem statusClasses : Obligations.StatusClasses := by
  intro p v
  have hmasked : classOf p (v &&& (p.goodMask ||| p.errMask)) = classOf p v := by
    have hgood := and_or_and_left v p.goodMask p.errMask
    have herr := and_or_and_left v p.errMask p.goodMask
    rw [BitVec.or_comm] at herr
    rw [classOf, hgood, herr, classOf]
  by_cases hg : v &&& p.goodMask = 0
  · by_cases he : v &&& p.errMask = 0
    · rw [hmasked, classOf_of_pending hg he]
      grind
    · rw [hmasked, classOf_of_error hg he]
      grind
  · rw [hmasked, classOf_of_good hg]
    grind

end Sys2Proof.Machine
end

section
/-! SUPPORT. Runs of an iteration, part by part: arming, polling, the frame's data and the report
(43_receive_state_machine.md R203, R206, R210). -/

namespace Sys2Proof.Machine

open Sys2Proof.Safety

variable {s t u : State} {rest : List Response} {es : List Event} {ps : List Word32} {pay : List Byte}

/-- `s` with the registers that an iteration writes taken from `t`, the responses `rest` left and `es` observed: the
fault registers, the inputs and the parameters are those of `s`. -/
def State.advanced (s t : State) (es : List Event) (rest : List Response) : State :=
  { s with
    st := t.st, status := t.status, frameLen := t.frameLen, payLen := t.payLen, buf := t.buf, fpRaw := t.fpRaw
    fp := t.fp, winStart := t.winStart, winEnd := t.winEnd, idx := t.idx, re := t.re, im := t.im, magMilli := t.magMilli
    responses := rest, trace := s.trace ++ es }

/-- `n` steps of an iteration from `s` to `t` that observe `es` and leave the responses `rest`. -/
structure Runs (n : Nat) (s : State) (es : List Event) (rest : List Response) (t : State) : Prop where
  run : Host.Core.run core n s = .next t
  frame : t = s.advanced t es rest

theorem Runs.trans {m n : Nat} {es' : List Event} {rest' : List Response} (h : Runs m s es rest t)
    (h' : Runs n t es' rest' u) : Runs (m + n) s (es ++ es') rest' u where
  run := (run_add m n s t h.run).trans h'.run
  frame := by
    refine h'.frame.trans ?_
    rw [h.frame]
    simp only [State.advanced, List.append_assoc]

theorem Runs.running {n : Nat} (h : Runs n s es rest t) (hrun : Running s) : Running t := by
  rw [h.frame]; exact hrun

theorem Runs.sinkHold_eq {n : Nat} (h : Runs n s es rest t) : t.sinkHold = s.sinkHold :=
  (congrArg State.sinkHold h.frame).trans rfl

theorem Runs.params_eq {n : Nat} (h : Runs n s es rest t) : t.params = s.params :=
  (congrArg State.params h.frame).trans rfl

theorem Runs.responses_eq {n : Nat} (h : Runs n s es rest t) : t.responses = rest :=
  congrArg State.responses h.frame

theorem Runs.trace_eq {n : Nat} (h : Runs n s es rest t) : t.trace = s.trace ++ es :=
  congrArg State.trace h.frame

/-- A report is a part of an iteration. -/
theorem Reports.runs {n : Nat} (h : Reports n s es rest t) : Runs n s es rest t :=
  ⟨h.run, by rw [h.frame]; rfl⟩

/-- One step of an iteration, by what the operation of its code answers. -/
theorem runs_of_exec {i : Instr} (hrun : Running s) (hi : decodeCode s.st = i) (h : exec i s = .next t)
    (hframe : t = s.advanced t es rest) : Runs 1 s es rest t :=
  ⟨run_succ ((step_running hrun).trans (hi ▸ h)), hframe⟩

/-! ### ARMED and WAITING -/

/-- S_ARM_CLEAR and S_ARM_REQ (R191, R192). -/
theorem runs_arm (hrun : Running s) (hst : s.st = 0x0) (hr : s.responses = .ack :: rest) :
    Runs 2 s [.request 0x1000000000000000 .ack] rest
      { s with
        buf := Memory.cleared, payLen := 0, st := 0x2, responses := rest
        trace := s.trace ++ [.request 0x1000000000000000 .ack] } := by
  have hclear : Runs 1 s [] s.responses { s with buf := Memory.cleared, payLen := 0, st := 0x1 } :=
    runs_of_exec hrun (congrArg decodeCode hst) rfl (by rw [State.advanced, List.append_nil])
  exact hclear.trans (runs_of_exec (hclear.running hrun) rfl ((armReqEffect _ rest).1 hr) rfl)

/-- A PENDING status is all that a poll of S_POLL changes (R193). -/
theorem runs_pending {v : Word32} (hrun : Running s) (hst : s.st = 0x2)
    (hv : v &&& s.params.goodMask = 0 ∧ v &&& s.params.errMask = 0) (hr : s.responses = .word v :: rest) :
    Runs 1 s [.request 0x2000000000000000 (.word v)] rest
      { s with
        status := v, responses := rest, trace := s.trace ++ [.request 0x2000000000000000 (.word v)] } := by
  obtain ⟨hg, he⟩ := hv
  have hpoll := (pollEffect s rest).1 v hr
  rw [if_neg (not_not.2 hg), if_neg (not_not.2 he), ← hst] at hpoll
  exact runs_of_exec hrun (congrArg decodeCode hst) hpoll rfl

/-- However many PENDING statuses come, they change `status` only (R203). -/
theorem exists_runs_polls (hrun : Running s) (hst : s.st = 0x2)
    (hps : ∀ w ∈ ps, w &&& s.params.goodMask = 0 ∧ w &&& s.params.errMask = 0)
    (hr : s.responses = ps.map .word ++ rest) :
    ∃ v, Runs ps.length s (pollEvents ps) rest
      { s with status := v, responses := rest, trace := s.trace ++ pollEvents ps } := by
  induction ps generalizing s with
  | nil =>
    obtain rfl : s.responses = rest := hr
    refine ⟨s.status, ?_⟩
    rw [pollEvents, List.map_nil, List.append_nil]
    exact (reports_refl s).runs
  | cons w ps ih =>
    obtain ⟨hw, hps⟩ := List.forall_mem_cons.1 hps
    have hpoll := runs_pending hrun hst hw hr
    obtain ⟨v, hrest⟩ := ih (hpoll.running hrun) hst hps rfl
    have hall := hpoll.trans hrest
    rw [Nat.add_comm] at hall
    simp only [List.append_assoc] at hall
    exact ⟨v, hall⟩

/-- Arming, any number of PENDING statuses, and one more status that is stored and classified (R191 to R193). -/
theorem runs_classify {v : Word32} (hrun : Running s) (hst : s.st = 0x0)
    (hps : ∀ w ∈ ps, w &&& s.params.goodMask = 0 ∧ w &&& s.params.errMask = 0)
    (hr : s.responses = .ack :: (ps.map .word ++ .word v :: rest)) :
    Runs (2 + ps.length + 1) s
      ([.request 0x1000000000000000 .ack] ++ pollEvents ps ++ [.request 0x2000000000000000 (.word v)]) rest
      { s with
        status := v, payLen := 0, buf := Memory.cleared
        st := if v &&& s.params.goodMask ≠ 0 then 0x3 else if v &&& s.params.errMask ≠ 0 then 0xC else 0x2
        responses := rest
        trace := s.trace ++
          ([.request 0x1000000000000000 .ack] ++ pollEvents ps ++ [.request 0x2000000000000000 (.word v)]) } := by
  have harm := runs_arm hrun hst hr
  obtain ⟨_, hpolls⟩ := exists_runs_polls (harm.running hrun) rfl hps rfl
  have hlisten := harm.trans hpolls
  have hall := hlisten.trans (runs_of_exec (hlisten.running hrun) rfl ((pollEffect _ rest).1 v rfl) rfl)
  simp only [← List.append_assoc]
  exact hall

/-! ### Observations without a line (20_memory.md R58) -/

theorem telemetry_eq_flatten (s : State) : s.telemetry = (linesOf s.trace).flatten := by
  unfold State.telemetry
  induction s.trace with
  | nil => rfl
  | cons e es ih =>
    cases e with
    | line bs => exact congrArg (bs ++ ·) ih
    | request w r => exact ih
    | sample re im => exact ih

theorem linesOf_pollEvents (ps : List Word32) : linesOf (pollEvents ps) = [] := by
  induction ps with
  | nil => rfl
  | cons w ps ih => exact ih

/-! ### FRAME_GOOD -/

theorem rxmemSize_of_wf {p : Config.Params} (h : p.wf = true) : 125 ≤ p.rxmemSize := by
  simp only [Config.Params.wf, Bool.and_eq_true, decide_eq_true_eq] at h
  exact h.2

/-- S_GOOD_LEN stores the length `len` and tests it (R195, R196). -/
theorem exists_runs_info {info : Word32} {len : Nat} (hrun : Running s) (hst : s.st = 0x3)
    (hinfo : len = (info &&& s.params.rxlenMask).toNat) (hr : s.responses = .word info :: rest) :
    ∃ t, Runs 1 s [.request 0x2100000000000000 (.word info)] rest t
      ∧ t.st = (if 2 < len ∧ len ≤ 127 then 0x4 else 0x5) ∧ t.frameLen.toNat = len ∧ t.payLen = s.payLen
      ∧ t.buf = s.buf := by
  subst hinfo
  exact ⟨_, runs_of_exec hrun (congrArg decodeCode hst) ((goodLenEffect s rest).1 info hr) rfl, rfl, rfl, rfl, rfl⟩

/-- S_GOOD_COPY writes the payload over the buffer (R197). -/
theorem exists_runs_copy (hrun : Running s) (hst : s.st = 0x4) (hpos : 1 ≤ pay.length) (hfits : pay.length ≤ 125)
    (hframe : s.frameLen.toNat = pay.length + 2) (hr : s.responses = .bytes pay :: rest) :
    ∃ t, Runs 1 s [.request (rxDataWordOf pay.length) (.bytes pay)] rest t ∧ t.st = 0x5
      ∧ t.payLen.toNat = pay.length ∧ (∀ k, k < pay.length → Memory.read t.buf k = pay[k]?)
      ∧ ∀ k, pay.length ≤ k → Memory.read t.buf k = Memory.read s.buf k := by
  have hmem := hfits.trans (rxmemSize_of_wf hrun.1)
  obtain ⟨t, hexec, ht, hread⟩ :=
    (goodCopyEffect s rest pay.length hframe hpos (by omega) hmem).1 pay hr rfl (by omega)
  have hpay : (BitVec.ofNat 8 pay.length).toNat = pay.length := by rw [BitVec.toNat_ofNat]; omega
  refine ⟨t, runs_of_exec hrun (congrArg decodeCode hst) hexec ?_, ?_, ?_, hread⟩
  · rw [ht]; rfl
  · rw [ht]
  · rw [ht]; exact hpay

/-- From a frame-good status to S_GOOD_DIAG: the buffer holds the payload, padded with zeros (R195 to R197, R204). -/
theorem exists_runs_payload {info : Word32} {len : Nat} (hrun : Running s) (hst : s.st = 0x3) (hpay : s.payLen = 0)
    (hbuf : s.buf = Memory.cleared) (hinfo : len = (info &&& s.params.rxlenMask).toNat)
    (hlen : pay.length = if 2 < len ∧ len ≤ 127 then len - 2 else 0)
    (hr : s.responses = .word info :: ((if pay = [] then [] else [.bytes pay]) ++ rest)) :
    ∃ t, Runs (1 + if pay = [] then 0 else 1) s (.request 0x2100000000000000 (.word info) ::
        if pay = [] then [] else [.request (rxDataWordOf pay.length) (.bytes pay)]) rest t
      ∧ t.st = 0x5 ∧ t.payLen.toNat = pay.length ∧ ∀ k, k < 127 → Memory.read t.buf k = some (pay.getD k 0) := by
  obtain ⟨u, hruns, hust, huframe, hupay, hubuf⟩ := exists_runs_info hrun hst hinfo hr
  have hclear (k : Nat) (hk : k < 127) : Memory.read u.buf k = some 0 := by
    rw [hubuf, hbuf, Memory.read_cleared, if_pos hk]
  by_cases htaken : 2 < len ∧ len ≤ 127
  · rw [if_pos htaken] at hlen hust
    have hne : pay ≠ [] := List.ne_nil_of_length_pos (by omega)
    simp only [if_neg hne] at hruns ⊢
    obtain ⟨t, hcopy, htst, htpay, hread, hkept⟩ :=
      exists_runs_copy (hruns.running hrun) hust (by omega) (by omega) (by omega) hruns.responses_eq
    refine ⟨t, hruns.trans hcopy, htst, htpay, fun k hk => ?_⟩
    by_cases hin : k < pay.length
    · rw [hread k hin, List.getD_eq_getElem _ _ hin, List.getElem?_eq_getElem hin]
    · rw [hkept k (by omega), hclear k hk, List.getD_eq_default _ _ (by omega)]
  · rw [if_neg htaken] at hlen hust
    obtain rfl := List.eq_nil_of_length_eq_zero hlen
    exact ⟨u, hruns, hust, by rw [hupay, hpay]; rfl, hclear⟩

/-- S_GOOD_DIAG fixes the window of the snapshot's index (R198). -/
theorem exists_runs_diag {raw : BitVec 16} {other : List Byte} (hrun : Running s) (hst : s.st = 0x5)
    (hr : s.responses = .diag raw other :: rest) :
    ∃ t, Runs 1 s [.request 0x6000000000000000 (.diag raw other)] rest t ∧ t.st = 0x6 ∧ t.fp.toNat = fpOf raw
      ∧ t.winStart.toNat = startOf (fpOf raw) ∧ t.winEnd.toNat = stopOf (fpOf raw) ∧ t.payLen = s.payLen
      ∧ t.buf = s.buf := by
  have hle := fpOf_le raw
  refine ⟨_, runs_of_exec hrun (congrArg decodeCode hst) ((goodDiagEffect s rest).1 raw other (fpOf raw) hr rfl) rfl,
    rfl, ?_, ?_, ?_, rfl, rfl⟩ <;> simp only [BitVec.toNat_ofNat, startOf, stopOf] <;> omega

/-- From S_GOOD_DIAG back to S_ARM_CLEAR: the snapshot, its report and the write-clear (R198, R206, R199). -/
theorem exists_runs_report {raw : BitVec 16} {other : List Byte} {rs : List Record} (hrun : Running s)
    (hs : s.sinkHold = false) (hst : s.st = 0x5) (hlen : rs.length = stopOf (fpOf raw) - startOf (fpOf raw) + 1)
    (hr : s.responses = .diag raw other :: (rs.map recordResponse ++ .ack :: rest)) :
    ∃ t, Runs (1 + (3 + 2 * rs.length) + 1) s ([.request 0x6000000000000000 (.diag raw other)] ++
        groupEvents (fpOf raw) rs ++ [.request (clearWordOf s.params.goodMask) .ack]) rest t
      ∧ t.st = 0x0 ∧ t.payLen = s.payLen ∧ t.buf = s.buf := by
  obtain ⟨u, hdiag, hust, hfp, hstart, hstop, hupay, hubuf⟩ := exists_runs_diag hrun hst hr
  have hurun := hdiag.running hrun
  rw [← hfp] at hstart hstop hlen ⊢
  obtain ⟨v, hgroup, hvst, -⟩ :=
    exists_reports_group hurun (hdiag.sinkHold_eq.trans hs) hust hstart hstop hlen hdiag.responses_eq
  have hshown := hdiag.trans hgroup.runs
  have hclear := (goodClrEffect v rest).1 hgroup.responses_eq
  rw [← hshown.params_eq]
  refine ⟨_, hshown.trans (runs_of_exec (hshown.running hrun) (congrArg decodeCode hvst) hclear rfl), rfl, ?_, ?_⟩
  · rw [← hupay, hgroup.frame]; rfl
  · rw [← hubuf, hgroup.frame]; rfl

end Sys2Proof.Machine
end

section
/-! PROOFS. The statements of 43_receive_state_machine.md on an iteration: O57, O56 and O55. -/

namespace Sys2Proof.Machine

open Sys2Proof.Safety

/-- Settles O57: no PENDING status leaves S_POLL. -/
theorem pendingStatusesNeverEndThePoll : Obligations.PendingStatusesNeverEndThePoll := by
  intro s ps rest hrun hst hps hr
  obtain ⟨v, hpolls⟩ := exists_runs_polls hrun hst hps hr
  exact ⟨_, hpolls.run, hst, rfl, rfl⟩

/-- Settles O56: after the frame-error status one write-clear is left. -/
theorem errorIteration : Obligations.ErrorIteration := by
  intro s ps e rest hrun hst hps hg he hr
  have hclass := runs_classify hrun hst hps hr
  simp only [if_neg (not_not.2 hg), if_pos he] at hclass
  have hall := hclass.trans (runs_of_exec (hclass.running hrun) rfl ((errClrEffect _ rest).1 rfl) rfl)
  have hsteps : 2 + ps.length + 1 + 1 = ps.length + 4 := by omega
  rw [hsteps] at hall
  simp only [List.append_assoc, List.cons_append, List.nil_append] at hall
  refine ⟨_, hall.run, hall.frame.trans ?frame, ?quiet, fun k hk => (Memory.read_cleared k).trans (if_pos hk)⟩
  case frame =>
    rw [hst]
    rfl
  case quiet =>
    rw [telemetry_eq_flatten, telemetry_eq_flatten, hall.trace_eq, linesOf_append]
    simp only [linesOf, linesOf_append, linesOf_pollEvents, List.append_nil]

/-- Settles O55: arming, polling, the frame's data and the report, one part after the other. -/
theorem goodIteration : Obligations.GoodIteration := by
  intro s ps g info len pay raw other rs rest hrun hs hst hps hg hinfo hpay hlen hr
  have hclass := runs_classify hrun hst hps hr
  simp only [if_pos hg] at hclass
  obtain ⟨u, hdata, hust, hupay, hubuf⟩ :=
    exists_runs_payload (hclass.running hrun) rfl rfl rfl hinfo hpay rfl
  have hreceived := hclass.trans hdata
  obtain ⟨t, hreport, htst, htpay, htbuf⟩ :=
    exists_runs_report (hreceived.running hrun) (hreceived.sinkHold_eq.trans hs) hust hlen hdata.responses_eq
  have hall := hreceived.trans hreport
  have hsteps : ps.length + 9 + (if pay = [] then 0 else 1) + 2 * rs.length =
      2 + ps.length + 1 + (1 + if pay = [] then 0 else 1) + (1 + (3 + 2 * rs.length) + 1) := by omega
  refine ⟨t, hsteps ▸ hall.run, htst, hall.responses_eq, htpay ▸ hupay, htbuf ▸ hubuf, ?_⟩
  rw [hall.trace_eq, hreceived.params_eq]
  simp only [List.append_assoc, List.cons_append, List.nil_append]

end Sys2Proof.Machine
end

section
/-! SUPPORT. Fault entry in the words of the claims (60_exceptions.md R231, R233), the code of a write-clear that gets
FAULT (log 8), and runs that stay where they are (R234; log 15). -/

namespace Sys2Proof.Machine

open Sys2Proof.Safety

variable {s : State} {w : BitVec 64} {c : Code} {rest : List Response}

/-! ### Runs that stay where they are -/

/-- A state that a step leaves as it is, every number of steps leaves as it is. -/
theorem run_of_step_self (h : step s = .next s) (k : Nat) : Host.Core.run core k s = .next s := by
  induction k with
  | zero => rfl
  | succ k ih => exact (run_succ h).trans ih

/-! ### Fault entry -/

/-- A code other than F_ACC_READ records no index (R233). -/
theorem State.raiseFault_of_ne (hc : c ≠ fAccRead) :
    s.raiseFault c = { s with faultCode := c, faultState := s.st, faultIdx := 0, st := 0xD } := by
  rw [State.raiseFault, if_neg hc]

/-- A request row that gets FAULT, in the words of the claims. -/
theorem requestAlone_faultedBy {α : Type} {take : Response → Option α} (hc : c ≠ fAccRead)
    (h : s.responses = .fault :: rest) :
    requestAlone w take c s = .next { faultedBy s w rest c 0 with bench := [] } := by
  rw [requestAlone_fault h, State.raiseFault_of_ne hc]
  rfl

/-- F_ACC_READ alone records `idx[9:0]` (R233; log 20). -/
theorem requestAlone_faultedBy_index {α : Type} {take : Response → Option α} (h : s.responses = .fault :: rest) :
    requestAlone w take fAccRead s =
      .next { faultedBy s w rest fAccRead (BitVec.ofNat 10 (s.idx.toNat % 1024)) with bench := [] } := by
  rw [requestAlone_fault h, State.raiseFault, if_pos rfl, idxLow_eq_ofNat]
  rfl

/-! ### The code of a write-clear (R231; log 8) -/

/-- The constraints on the parameters keep the two masks apart (00_scope.md R9). -/
theorem errMask_ne_goodMask {p : Config.Params} (h : p.wf = true) : p.errMask ≠ p.goodMask := by
  simp only [Config.Params.wf, Bool.and_eq_true, bne_iff_ne, beq_iff_eq] at h
  obtain ⟨⟨⟨⟨hgood, -⟩, hdisjoint⟩, -⟩, -⟩ := h
  intro heq
  rw [heq, BitVec.and_self] at hdisjoint
  exact hgood hdisjoint

theorem clearCode_goodMask (s : State) : clearCode s s.params.goodMask = fClearGood := if_pos rfl

theorem clearCode_errMask (h : s.params.wf = true) : clearCode s s.params.errMask = fClearErr :=
  (if_neg (errMask_ne_goodMask h)).trans (if_pos rfl)

theorem clearCode_cases (s : State) (mask : Word32) : clearCode s mask = fClearGood ∨ clearCode s mask = fClearErr := by
  unfold clearCode
  split_ifs
  · exact Or.inl rfl
  · exact Or.inr rfl
  · exact Or.inl rfl
  · exact Or.inr rfl

/-- No code of a write-clear is F_ACC_READ, so none records an index. -/
theorem clearCode_ne_fAccRead (s : State) (mask : Word32) : clearCode s mask ≠ fAccRead := by
  rcases clearCode_cases s mask with h | h <;> rw [h] <;> decide

/-- A write-clear with one of the two parameters draws no free code. -/
theorem execWriteClear32_parameter {mask : Word32} {r : Response} (h : s.responses = r :: rest)
    (hmask : mask = s.params.goodMask ∨ mask = s.params.errMask) :
    execWriteClear32 mask s = requestAlone (clearWord mask) takeAck (clearCode s mask) s := by
  have hsome : s.responses.isEmpty = false := by rw [h]; rfl
  simp only [execWriteClear32, hsome, Bool.false_eq_true, if_false, if_pos hmask]

end Sys2Proof.Machine
end

section
/-! PROOFS. The statements of 60_exceptions.md: O58, O25, O26 and O28. -/

namespace Sys2Proof.Machine

open Sys2Proof.Safety

/-- Settles O58: the step of FAULTED leaves the state as it is, and so does every run of such steps. -/
theorem faultedForEver : Obligations.FaultedForEver := fun k _ hp hr hst => run_of_step_self (step_faulted hp hr hst) k

/-- Settles O25: S_FAULT answers its own state, and without reset the step of FAULTED is S_FAULT. -/
theorem faultedHolds : Obligations.FaultedHolds :=
  ⟨fun _ => rfl, fun _ => step_faulted, fun _ => beq_iff_eq⟩

/-- Settles O26: both reserved codes are fault entry with F_BAD_STATE, which records no index. -/
theorem reservedCodesFault : Obligations.ReservedCodesFault := fun _ _ =>
  congrArg Host.Outcome.next (State.raiseFault_of_ne (c := fBadState) (by decide))

/-- Settles O28: each row is `requestAlone` of its word with its code of R231, and only the code of READ_ACC records an
index. -/
theorem requestRowsFault : Obligations.RequestRowsFault := by
  intro s rest h
  refine ⟨?armRx, ?status, ?rxinfo, fun len hpos hmem => ?readRxData, ?readDiag, fun index => ?readAcc, ?clearGood,
    fun hp => ?clearErr, fun mask => ?clearAny⟩
  case armRx =>
    rw [← armWord_eq]
    exact requestAlone_faultedBy (by decide) h
  case status =>
    rw [← regReadWord_ridStatus]
    exact requestAlone_faultedBy (by decide) h
  case rxinfo =>
    rw [← regReadWord_ridRxinfo]
    exact requestAlone_faultedBy (by decide) h
  case readRxData =>
    rw [← rxDataWord_eq]
    exact (execReadRxData_request hpos hmem).trans (requestAlone_faultedBy (by decide) h)
  case readDiag =>
    rw [← diagWord_eq]
    exact requestAlone_faultedBy (by decide) h
  case readAcc =>
    rw [← accWord_eq]
    exact requestAlone_faultedBy_index h
  case clearGood =>
    have hrow := execWriteClear32_parameter h (Or.inl rfl)
    rw [clearCode_goodMask, clearWord_eq] at hrow
    exact hrow.trans (requestAlone_faultedBy (by decide) h)
  case clearErr =>
    have hrow := execWriteClear32_parameter h (Or.inr rfl)
    rw [clearCode_errMask hp, clearWord_eq] at hrow
    exact hrow.trans (requestAlone_faultedBy (by decide) h)
  case clearAny =>
    obtain ⟨n, hn⟩ := execWriteClear32_request mask h
    rw [← clearWord_eq]
    exact ⟨_, hn.trans (requestAlone_faultedBy (clearCode_ne_fAccRead s mask) h), clearCode_cases s mask, rfl⟩

end Sys2Proof.Machine
end

section
/-! SUPPORT. What an asserted reset holds and what its release leaves (70_reset_and_hazards.md R260, R261). -/

namespace Sys2Proof.Machine

variable {s : State}

/-- While reset is asserted it is applied again and again, and the first time has already set every register (log 24). -/
theorem step_setReset_true (hp : s.params.wf = true) : step (s.setReset true) = .next (s.setReset true) :=
  have hagain : (s.setReset true).applyReset = s.setReset true := rfl
  (step_reset (by rwa [State.setReset_params]) (State.setReset_rstIn s true)).trans (congrArg _ hagain)

/-- A release leaves nothing in the way of the block's own step (R261). -/
theorem running_of_release (hp : s.params.wf = true) (hr : s.rstIn = true) : Safety.Running (s.setReset false) := by
  rw [State.setReset_false hr]
  exact ⟨hp, rfl, rfl⟩

/-- The operation of the first step after a release is S_ARM_CLEAR (R261). -/
theorem step_of_release (hp : s.params.wf = true) (hr : s.rstIn = true) :
    step (s.setReset false) = exec .sArmClear (s.setReset false) := by
  have hst : (s.setReset false).st = 0x0 := by rw [State.setReset_false hr, State.applyReset_st]
  rw [step_running (running_of_release hp hr), hst]
  rfl

end Sys2Proof.Machine
end

section
/-! PROOFS. The statements of 70_reset_and_hazards.md: O60 and O2. -/

namespace Sys2Proof.Machine

/-- Settles O60: an asserted reset holds its state through every run, so the release finds what the assertion left. -/
theorem releaseLeavesTheResetValues : Obligations.ReleaseLeavesTheResetValues := by
  refine ⟨fun _ => State.setReset_false, fun k s hp => ?_, fun _ => State.setReset_idle⟩
  have hr : (s.setReset true).rstIn = true := State.setReset_rstIn s true
  have hp' : (s.setReset true).params.wf = true := by rwa [State.setReset_params]
  exact ⟨s.setReset true, run_of_step_self (step_setReset_true hp) k, State.setReset_false hr, step_of_release hp' hr⟩

/-- Settles O2: the step of a state with reset asserted is `State.applyReset`, which keeps the input asserted. -/
theorem resetTakesPrecedence : Obligations.ResetTakesPrecedence := by
  intro s hp hr
  rw [step_reset hp hr, State.applyReset, hr]

end Sys2Proof.Machine
end
